-- ==== Sys2Proof/Word.lean ====
section
/-! DEFINITION. The bit-vector types of the EC3DH CORE engine (spec 00_scope R8, R13; 30_encoding R49, R50). -/

namespace Sys2Proof

/-- One 32-bit word: a command word, or one access of the host window (R36, R49). -/
abbrev Word := BitVec 32

/-- A field value, coordinate or scalar: an unsigned integer in [0, 2^256) (R8 `WIDTH`, R14). -/
abbrev Value := BitVec 256

/-- A register index of either file; every value 0 to 15 names a register (R50). -/
abbrev RegIdx := BitVec 4

/-- An offset inside the 4096-byte register window (R35). -/
abbrev Offset := BitVec 12

end Sys2Proof
end

