-- ==== Sys2Proof/Syntax.lean ====
section
/-! DEFINITION. The 27 commands of EC3DH-CORE version 1, one constructor per row of the opcode table
(spec 30_encoding R49 to R53). -/

namespace Sys2Proof

/-- The modulus a modular field command selects with M: p for M = 0, n for M = 1 (R51). -/
inductive Modulus where
  | p
  | n
  deriving DecidableEq, Repr

/-- One legal command with the fields it uses, destination first (R53, R56).
`d`, `a`, `b` and `c` are the register fields D, A, B and C; `m` is the modulus; `i` is the immediate. -/
inductive Instr where
  | nop
  | fadd (d a b : RegIdx) (m : Modulus)
  | fsub (d a b : RegIdx) (m : Modulus)
  | fmul (d a b : RegIdx) (m : Modulus)
  | finv (d a : RegIdx) (m : Modulus)
  | fexp (d a b : RegIdx) (m : Modulus)
  | fcmp (a b : RegIdx)
  | fisz (a : RegIdx)
  | ftbit (a : RegIdx) (i : BitVec 8)
  | fmov (d a : RegIdx)
  | fldc (d : RegIdx) (i : BitVec 8)
  | pseti (d : RegIdx)
  | pseta (d a b : RegIdx)
  | psetj (d a b c : RegIdx)
  | psetg (d : RegIdx)
  | pgetx (d a : RegIdx)
  | pgety (d a : RegIdx)
  | pgetz (d a : RegIdx)
  | pmov (d a : RegIdx)
  | pneg (d a : RegIdx)
  | pdbl (d a : RegIdx)
  | padd (d a b : RegIdx)
  | ponc (a : RegIdx)
  | paff (d a : RegIdx)
  | pjac (d a : RegIdx)
  | psmul (d a b : RegIdx)
  | zero
  deriving DecidableEq, Repr

end Sys2Proof
end

