-- ==== Sys2Proof/WellFormed.lean ====
section
/-! DEFINITION. Which terms of `Instr` are legal commands. The types of the fields already keep every register
index, modulus and bit index legal; the FLDC selector is the one operand with illegal values (spec 30_encoding
R52, R54 condition 4). -/

namespace Sys2Proof

/-- The FLDC selector names one of the seven curve constants (R52, R54). -/
def selectorOk (i : BitVec 8) : Bool := decide (i.toNat ≤ 6)

/-- The command is legal: its operands are values the encoding admits (R54). -/
def Instr.wellFormed : Instr → Bool
  | .fldc _ i => selectorOk i
  | .nop => true
  | .fadd .. => true
  | .fsub .. => true
  | .fmul .. => true
  | .finv .. => true
  | .fexp .. => true
  | .fcmp .. => true
  | .fisz .. => true
  | .ftbit .. => true
  | .fmov .. => true
  | .pseti .. => true
  | .pseta .. => true
  | .psetj .. => true
  | .psetg .. => true
  | .pgetx .. => true
  | .pgety .. => true
  | .pgetz .. => true
  | .pmov .. => true
  | .pneg .. => true
  | .pdbl .. => true
  | .padd .. => true
  | .ponc .. => true
  | .paff .. => true
  | .pjac .. => true
  | .psmul .. => true
  | .zero => true

end Sys2Proof
end

