-- ==== Sys2Proof/Decode.lean ====
section
/-! DEFINITION. The command word: its fields, the decoder, the encoder and the opcode table (spec 30_encoding
R49 to R58). -/

namespace Sys2Proof

/-- The fields of a command word, most significant first (R49). -/
structure Fields where
  op : BitVec 6
  d  : BitVec 4
  a  : BitVec 4
  b  : BitVec 4
  c  : BitVec 4
  m  : BitVec 2
  i  : BitVec 8
  deriving DecidableEq, Repr

/-- The fields of the word `w`: OP [31:26], D [25:22], A [21:18], B [17:14], C [13:10], M [9:8], I [7:0] (R49). -/
def splitWord (w : Word) : Fields where
  op := w.extractLsb' 26 6
  d  := w.extractLsb' 22 4
  a  := w.extractLsb' 18 4
  b  := w.extractLsb' 14 4
  c  := w.extractLsb' 10 4
  m  := w.extractLsb' 8 2
  i  := w.extractLsb' 0 8

/-- The word with the given fields, `{OP, D, A, B, C, M, I}` (R49). -/
def packFields (x : Fields) : Word :=
  x.op ++ x.d ++ x.a ++ x.b ++ x.c ++ x.m ++ x.i

/-- Why a word is no legal command: the four conditions of R54. -/
inductive DecodeError where
  /-- Condition 1: the opcode is reserved. -/
  | reservedOpcode
  /-- Condition 2: a field the opcode does not use is nonzero. -/
  | unusedField
  /-- Condition 3: a modular field command with M = 2 or M = 3. -/
  | badModulus
  /-- Condition 4: FLDC with a selector above 6. -/
  | badSelector
  deriving DecidableEq, Repr

/-- Condition 2 of R54: the command `r` if every field its opcode does not use is 0. -/
def ifUnusedZero (ok : Bool) (r : Except DecodeError Instr) : Except DecodeError Instr :=
  if ok then r else .error .unusedField

/-- The modulus M selects, and condition 3 of R54 (R51). -/
def withModulus (m : BitVec 2) (k : Modulus → Instr) : Except DecodeError Instr :=
  if m = 0#2 then .ok (k .p) else if m = 1#2 then .ok (k .n) else .error .badModulus

/-- The command the fields name, or the condition of R54 they meet (R53, R54). -/
def decodeFields (x : Fields) : Except DecodeError Instr :=
  match x.op.toNat with
  | 0x00 => ifUnusedZero (x.d == 0 && x.a == 0 && x.b == 0 && x.c == 0 && x.m == 0 && x.i == 0) (.ok .nop)
  | 0x01 => ifUnusedZero (x.c == 0 && x.i == 0) (withModulus x.m (.fadd x.d x.a x.b))
  | 0x02 => ifUnusedZero (x.c == 0 && x.i == 0) (withModulus x.m (.fsub x.d x.a x.b))
  | 0x03 => ifUnusedZero (x.c == 0 && x.i == 0) (withModulus x.m (.fmul x.d x.a x.b))
  | 0x04 => ifUnusedZero (x.b == 0 && x.c == 0 && x.i == 0) (withModulus x.m (.finv x.d x.a))
  | 0x05 => ifUnusedZero (x.c == 0 && x.i == 0) (withModulus x.m (.fexp x.d x.a x.b))
  | 0x06 => ifUnusedZero (x.d == 0 && x.c == 0 && x.m == 0 && x.i == 0) (.ok (.fcmp x.a x.b))
  | 0x07 => ifUnusedZero (x.d == 0 && x.b == 0 && x.c == 0 && x.m == 0 && x.i == 0) (.ok (.fisz x.a))
  | 0x08 => ifUnusedZero (x.d == 0 && x.b == 0 && x.c == 0 && x.m == 0) (.ok (.ftbit x.a x.i))
  | 0x09 => ifUnusedZero (x.b == 0 && x.c == 0 && x.m == 0 && x.i == 0) (.ok (.fmov x.d x.a))
  | 0x0A => ifUnusedZero (x.a == 0 && x.b == 0 && x.c == 0 && x.m == 0)
      (if selectorOk x.i then .ok (.fldc x.d x.i) else .error .badSelector)
  | 0x10 => ifUnusedZero (x.a == 0 && x.b == 0 && x.c == 0 && x.m == 0 && x.i == 0) (.ok (.pseti x.d))
  | 0x11 => ifUnusedZero (x.c == 0 && x.m == 0 && x.i == 0) (.ok (.pseta x.d x.a x.b))
  | 0x12 => ifUnusedZero (x.m == 0 && x.i == 0) (.ok (.psetj x.d x.a x.b x.c))
  | 0x13 => ifUnusedZero (x.a == 0 && x.b == 0 && x.c == 0 && x.m == 0 && x.i == 0) (.ok (.psetg x.d))
  | 0x14 => ifUnusedZero (x.b == 0 && x.c == 0 && x.m == 0 && x.i == 0) (.ok (.pgetx x.d x.a))
  | 0x15 => ifUnusedZero (x.b == 0 && x.c == 0 && x.m == 0 && x.i == 0) (.ok (.pgety x.d x.a))
  | 0x16 => ifUnusedZero (x.b == 0 && x.c == 0 && x.m == 0 && x.i == 0) (.ok (.pgetz x.d x.a))
  | 0x17 => ifUnusedZero (x.b == 0 && x.c == 0 && x.m == 0 && x.i == 0) (.ok (.pmov x.d x.a))
  | 0x18 => ifUnusedZero (x.b == 0 && x.c == 0 && x.m == 0 && x.i == 0) (.ok (.pneg x.d x.a))
  | 0x19 => ifUnusedZero (x.b == 0 && x.c == 0 && x.m == 0 && x.i == 0) (.ok (.pdbl x.d x.a))
  | 0x1A => ifUnusedZero (x.c == 0 && x.m == 0 && x.i == 0) (.ok (.padd x.d x.a x.b))
  | 0x1B => ifUnusedZero (x.d == 0 && x.b == 0 && x.c == 0 && x.m == 0 && x.i == 0) (.ok (.ponc x.a))
  | 0x1C => ifUnusedZero (x.b == 0 && x.c == 0 && x.m == 0 && x.i == 0) (.ok (.paff x.d x.a))
  | 0x1D => ifUnusedZero (x.b == 0 && x.c == 0 && x.m == 0 && x.i == 0) (.ok (.pjac x.d x.a))
  | 0x20 => ifUnusedZero (x.c == 0 && x.m == 0 && x.i == 0) (.ok (.psmul x.d x.a x.b))
  | 0x30 => ifUnusedZero (x.d == 0 && x.a == 0 && x.b == 0 && x.c == 0 && x.m == 0 && x.i == 0) (.ok .zero)
  | _ => .error .reservedOpcode

/-- The decoder, total on every word: the command, or the condition of R54 the word meets. -/
def decode (w : Word) : Except DecodeError Instr :=
  decodeFields (splitWord w)

/-- The instruction the decoder reads from a word whose bits are `w`, with the bits from `nbits` up being 0.
Every command is one 32-bit word (R49), so a longer word is no command. -/
def decodeTableWord (nbits w : Nat) : Option Instr :=
  if nbits ≤ 32 then
    match decode (BitVec.ofNat 32 (w % 2 ^ nbits)) with
    | .ok i => some i
    | .error _ => none
  else none

/-- The M field that selects a modulus (R51). -/
def Modulus.bits : Modulus → BitVec 2
  | .p => 0#2
  | .n => 1#2

/-- The fields of a command, every unused field 0 (R49, R53). -/
def encodeFields : Instr → Fields
  | .nop => ⟨0x00#6, 0, 0, 0, 0, 0, 0⟩
  | .fadd d a b m => ⟨0x01#6, d, a, b, 0, m.bits, 0⟩
  | .fsub d a b m => ⟨0x02#6, d, a, b, 0, m.bits, 0⟩
  | .fmul d a b m => ⟨0x03#6, d, a, b, 0, m.bits, 0⟩
  | .finv d a m => ⟨0x04#6, d, a, 0, 0, m.bits, 0⟩
  | .fexp d a b m => ⟨0x05#6, d, a, b, 0, m.bits, 0⟩
  | .fcmp a b => ⟨0x06#6, 0, a, b, 0, 0, 0⟩
  | .fisz a => ⟨0x07#6, 0, a, 0, 0, 0, 0⟩
  | .ftbit a i => ⟨0x08#6, 0, a, 0, 0, 0, i⟩
  | .fmov d a => ⟨0x09#6, d, a, 0, 0, 0, 0⟩
  | .fldc d i => ⟨0x0A#6, d, 0, 0, 0, 0, i⟩
  | .pseti d => ⟨0x10#6, d, 0, 0, 0, 0, 0⟩
  | .pseta d a b => ⟨0x11#6, d, a, b, 0, 0, 0⟩
  | .psetj d a b c => ⟨0x12#6, d, a, b, c, 0, 0⟩
  | .psetg d => ⟨0x13#6, d, 0, 0, 0, 0, 0⟩
  | .pgetx d a => ⟨0x14#6, d, a, 0, 0, 0, 0⟩
  | .pgety d a => ⟨0x15#6, d, a, 0, 0, 0, 0⟩
  | .pgetz d a => ⟨0x16#6, d, a, 0, 0, 0, 0⟩
  | .pmov d a => ⟨0x17#6, d, a, 0, 0, 0, 0⟩
  | .pneg d a => ⟨0x18#6, d, a, 0, 0, 0, 0⟩
  | .pdbl d a => ⟨0x19#6, d, a, 0, 0, 0, 0⟩
  | .padd d a b => ⟨0x1A#6, d, a, b, 0, 0, 0⟩
  | .ponc a => ⟨0x1B#6, 0, a, 0, 0, 0, 0⟩
  | .paff d a => ⟨0x1C#6, d, a, 0, 0, 0, 0⟩
  | .pjac d a => ⟨0x1D#6, d, a, 0, 0, 0, 0⟩
  | .psmul d a b => ⟨0x20#6, d, a, b, 0, 0, 0⟩
  | .zero => ⟨0x30#6, 0, 0, 0, 0, 0, 0⟩

/-- The word of a well-formed command (R49). -/
def encode (i : Instr) : Word :=
  packFields (encodeFields i)

/-- One row of the opcode table: a word `w` is a word of the row when `w AND mask = bits` (R54). -/
structure OpcodeRow where
  mnemonic : String
  bits : Word
  mask : Word
  deriving DecidableEq, Repr

/-- The first half of the opcode table, its `match` and `mask` columns. -/
def opcodeTableA : List OpcodeRow := [
  ⟨"NOP", 0x00000000#32, 0xFFFFFFFF#32⟩,
  ⟨"FADD", 0x04000000#32, 0xFC003EFF#32⟩,
  ⟨"FSUB", 0x08000000#32, 0xFC003EFF#32⟩,
  ⟨"FMUL", 0x0C000000#32, 0xFC003EFF#32⟩,
  ⟨"FINV", 0x10000000#32, 0xFC03FEFF#32⟩,
  ⟨"FEXP", 0x14000000#32, 0xFC003EFF#32⟩,
  ⟨"FCMP", 0x18000000#32, 0xFFC03FFF#32⟩,
  ⟨"FISZ", 0x1C000000#32, 0xFFC3FFFF#32⟩,
  ⟨"FTBIT", 0x20000000#32, 0xFFC3FF00#32⟩,
  ⟨"FMOV", 0x24000000#32, 0xFC03FFFF#32⟩,
  ⟨"FLDC", 0x28000000#32, 0xFC3FFF00#32⟩,
  ⟨"PSETI", 0x40000000#32, 0xFC3FFFFF#32⟩,
  ⟨"PSETA", 0x44000000#32, 0xFC003FFF#32⟩,
  ⟨"PSETJ", 0x48000000#32, 0xFC0003FF#32⟩]

/-- The second half of the opcode table. -/
def opcodeTableB : List OpcodeRow := [
  ⟨"PSETG", 0x4C000000#32, 0xFC3FFFFF#32⟩,
  ⟨"PGETX", 0x50000000#32, 0xFC03FFFF#32⟩,
  ⟨"PGETY", 0x54000000#32, 0xFC03FFFF#32⟩,
  ⟨"PGETZ", 0x58000000#32, 0xFC03FFFF#32⟩,
  ⟨"PMOV", 0x5C000000#32, 0xFC03FFFF#32⟩,
  ⟨"PNEG", 0x60000000#32, 0xFC03FFFF#32⟩,
  ⟨"PDBL", 0x64000000#32, 0xFC03FFFF#32⟩,
  ⟨"PADD", 0x68000000#32, 0xFC003FFF#32⟩,
  ⟨"PONC", 0x6C000000#32, 0xFFC3FFFF#32⟩,
  ⟨"PAFF", 0x70000000#32, 0xFC03FFFF#32⟩,
  ⟨"PJAC", 0x74000000#32, 0xFC03FFFF#32⟩,
  ⟨"PSMUL", 0x80000000#32, 0xFC003FFF#32⟩,
  ⟨"ZERO", 0xC0000000#32, 0xFFFFFFFF#32⟩]

/-- The opcode table of the spec, row for row (R53, R54). -/
def opcodeTable : List OpcodeRow := opcodeTableA ++ opcodeTableB

/-- The word matches a row of the opcode table (R54). -/
def OpcodeRow.matchesWord (r : OpcodeRow) (w : Word) : Bool :=
  w &&& r.mask == r.bits

end Sys2Proof
end

