-- ==== Sys2Proof/Config.lean ====
section
/-! DEFINITION. What is fixed when the block is built: the curve constants, the wNAF parameters, the
identification word and the window's bus base (spec 00_scope R8 to R12; 10_state R25, R26; 20_memory R35). -/

namespace Sys2Proof

/-- The constant record `CURVE = (p, a, b, Gx, Gy, n, h)`, the table C[0..6] in this order (R9, R25). -/
structure Curve where
  p  : Value
  a  : Value
  b  : Value
  gx : Value
  gy : Value
  n  : Value
  h  : Value
  deriving DecidableEq, Repr

/-- The conditions R9 puts on a curve configuration.
The bounds below 2^256 hold by the type of the fields. -/
abbrev Curve.Valid (c : Curve) : Prop :=
  Nat.Prime c.p.toNat ∧ c.p.toNat % 2 = 1 ∧ 5 ≤ c.p.toNat ∧ 2 ≤ c.n.toNat ∧
    c.a.toNat < c.p.toNat ∧ c.b.toNat < c.p.toNat ∧
    c.gx.toNat < c.p.toNat ∧ c.gy.toNat < c.p.toNat

/-- The curve constants of this hardware: secp256r1 (R10).
DEDUCED (log 14): the numbers are the spec's general-knowledge item G1. -/
def secp256r1 : Curve where
  p  := 0xFFFFFFFF00000001000000000000000000000000FFFFFFFFFFFFFFFFFFFFFFFF#256
  a  := 0xFFFFFFFF00000001000000000000000000000000FFFFFFFFFFFFFFFFFFFFFFFC#256
  b  := 0x5AC635D8AA3A93E7B3EBBD55769886BC651D06B0CC53B0F63BCE3C3E27D2604B#256
  gx := 0x6B17D1F2E12C4247F8BCE6E563A440F277037D812DEB33A0F4A13945D898C296#256
  gy := 0x4FE342E2FE1A7F9B8EE7EB4A7C0F9E162BCE33576B315ECECBB6406837BF51F5#256
  n  := 0xFFFFFFFF00000000FFFFFFFFFFFFFFFFBCE6FAADA7179E84F3B9CAC2FC632551#256
  h  := 0x1#256

/-- The build configuration a model takes as a record (R8): the curve, the wNAF window width W, the digit
count L, and the word the ID register holds. -/
structure Config where
  curve : Curve
  wnafW : Nat
  wnafL : Nat
  ident : Word
  deriving DecidableEq, Repr

/-- A configuration the model accepts: a curve that meets R9 and a window width that meets R11. -/
abbrev Config.Valid (c : Config) : Prop :=
  c.curve.Valid ∧ 2 ≤ c.wnafW ∧ c.wnafW ≤ 8

/-- This hardware's configuration (R8, R10, R11, R12, R26). -/
def Config.hardware : Config where
  curve := secp256r1
  wnafW := 5
  wnafL := 257
  ident := 0xEC3D0001#32

/-- The number of field registers, `NF` (R8). -/
def Config.nf : Nat := 16

/-- The number of point registers, `NP` (R8). -/
def Config.np : Nat := 16

/-- The bus address of the register window in units of 4096 bytes.
`BASE` is OPEN and a multiple of 4096 (R35): a free value, nothing says what it is. DESIGN CHOICE, safe
(log 7). -/
opaque Config.basePage : Nat

/-- `BASE`, the bus address of the register window (R8, R35). -/
def Config.base : Nat := 4096 * Config.basePage

end Sys2Proof
end

