-- ==== Sys2Proof/Machine/State.lean ====
section
/-! DEFINITION. The architectural state of the block, the host's pending accesses, and the reasons a step can stop
(spec 10_state R19 to R34; 00_scope R16; 60_exceptions R105). -/

namespace Sys2Proof.Machine

open Sys2Proof

/-- The form of a point register, the 2-bit tag of R23. The value 11 is never held (R24 (v)), so it has no name here: DEDUCED, safe
(log 6). -/
inductive Tag where
  | aff
  | jac
  | inf
  deriving DecidableEq, Repr

/-- A point register: tag and three stored coordinates (R22). -/
structure PointReg where
  tag : Tag
  x : Value
  y : Value
  z : Value
  deriving DecidableEq, Repr

/-- A point value: the identity, an affine point or a Jacobian point, with integer coordinates (R16). -/
inductive Point where
  | inf
  | aff (x y : Nat)
  | jac (x y z : Nat)
  deriving DecidableEq, Repr

/-- The completion codes of R105; codes 3 to 15 are never written. -/
inductive Completion where
  | ok
  | illegal
  | noinv
  deriving DecidableEq, Repr

/-- The working state of the scalar multiplier, which no host access can read (R32): the wNAF digits (least
significant first), the working copy of the scalar, the table, the doubled point, the accumulator and the digit
index. -/
structure Scratch where
  digits : List Int
  kk : Nat
  table : List Point
  d2 : Point
  acc : Point
  idx : Nat
  deriving DecidableEq, Repr

/-- One event of the single sequence of R46.
`engine` is a turn of the engine, `reset` the platform's reset (R120), and `read` and `write` are host accesses
of `size` bytes at an offset of the window (R35, R37). -/
inductive Event where
  | engine
  | reset
  | read (off : Offset) (size : Nat)
  | write (off : Offset) (size : Nat) (v : Word)
  deriving DecidableEq, Repr

/-- The state. Every field but the last two is a row of R34; `config` holds the constants C[0..6], ID and CFG.
`events` and `reply` are the host agent of R19: the accesses still to be delivered, with the engine's turns among
them, and the word the last read returned.
DESIGN CHOICE (log 1, 2): both are the model's own; a schedule is data, and unsafe only where a claim rests on their
reset values. -/
structure State where
  config : Config
  f : Vector Value 16
  pt : Vector PointReg 16
  cmd : Word
  irqen : Bool
  busy : Bool
  done : Bool
  werr : Bool
  err : BitVec 4
  cmp : BitVec 2
  zf : Bool
  bitf : Bool
  onc : Bool
  cl : Word
  scratch : Scratch
  events : List Event
  reply : Option Word
  deriving DecidableEq, Repr

/-- The reasons a step stops with a fault. -/
inductive Fault where
  /-- Raised by a host access that is not 4 bytes wide at a multiple of 4 (R37, R109): the bus response `BUS_REFUSE`
  is OPEN and the model has no step for it. DEDUCED (log 4). Safe: nothing is claimed of what follows such an access. -/
  | busRefused (off : Offset) (size : Nat)
  deriving DecidableEq, Repr

/-- The reasons a step is refused. -/
inductive Refusal where
  /-- Raised by an arm of `exec` for a command that has no meaning yet; no arm raises it. Safe: the step has no
  next state. -/
  | notModelled (mnemonic : String)
  deriving DecidableEq, Repr

/-- The canonical identity: tag INF and X = Y = Z = 0 (R24 (iv)). -/
def PointReg.identity : PointReg := ⟨.inf, 0#256, 0#256, 0#256⟩

/-- The point value whose tag and coordinates are all zero bits, which erased scratch entries hold (R32).
DESIGN CHOICE, safe (log 8): no access and no command reads it. -/
def Point.zeroBits : Point := .aff 0 0

/-- The erased scratch of a multiplier with the given parameters: every element 0 (R32, R34). -/
def Scratch.cleared (c : Config) : Scratch where
  digits := List.replicate c.wnafL 0
  kk := 0
  table := List.replicate (2 ^ (c.wnafW - 2)) .zeroBits
  d2 := .zeroBits
  acc := .zeroBits
  idx := 0

/-- The state right after reset of a block built with configuration `c` (R34, R120), no host access pending. -/
def State.resetOf (c : Config) : State where
  config := c
  f := Vector.replicate 16 0#256
  pt := Vector.replicate 16 .identity
  cmd := 0#32
  irqen := false
  busy := false
  done := false
  werr := false
  err := 0#4
  cmp := 0#2
  zf := false
  bitf := false
  onc := false
  cl := 0#32
  scratch := .cleared c
  events := []
  reply := none

/-- This hardware right after reset (R34, R120). -/
def State.reset : State := .resetOf .hardware

end Sys2Proof.Machine
end

