-- ==== Sys2Proof/Machine/Ops.lean ====
section
/-! DEFINITION. The named operations on the state: the register files, the constant table, starting a command,
completing one (with or without an error) and reset (spec 10_state; 60_exceptions R102, R103, R110; 70_reset R120,
R121). -/

namespace Sys2Proof.Machine

open Sys2Proof

/-- `F[r]` (R15, R21). -/
def State.readF (s : State) (r : RegIdx) : Value :=
  s.f[r.toNat]'r.isLt

/-- `F[r] <- v` (R15, R21). -/
def State.writeF (s : State) (r : RegIdx) (v : Value) : State :=
  { s with f := s.f.set r.toNat v r.isLt }

/-- `PT[r]`, tag and coordinates (R15, R22). -/
def State.readPt (s : State) (r : RegIdx) : PointReg :=
  s.pt[r.toNat]'r.isLt

/-- `PT[r] <- v` (R15, R22). -/
def State.writePt (s : State) (r : RegIdx) (v : PointReg) : State :=
  { s with pt := s.pt.set r.toNat v r.isLt }

/-- The host's 2-bit view of a tag: 00 AFF, 01 JAC, 10 INF (R23). -/
def Tag.bits : Tag → BitVec 2
  | .aff => 0b00#2
  | .jac => 0b01#2
  | .inf => 0b10#2

/-- The 4-bit completion code (R105). -/
def Completion.bits : Completion → BitVec 4
  | .ok => 0#4
  | .illegal => 1#4
  | .noinv => 2#4

/-- `C[c]`: 0 p, 1 a, 2 b, 3 Gx, 4 Gy, 5 n, 6 h; no constant has another number (R25). -/
def curveConst (c : Curve) : Nat → Option Value
  | 0 => some c.p
  | 1 => some c.a
  | 2 => some c.b
  | 3 => some c.gx
  | 4 => some c.gy
  | 5 => some c.n
  | 6 => some c.h
  | _ => none

/-- The value of the ID register (R26). -/
def idWord (c : Config) : Word := c.ident

/-- The value of the CFG register: W in [3:0], L in [15:4], NF in [23:16], NP in [31:24] (R26). -/
def cfgWord (c : Config) : Word :=
  BitVec.ofNat 8 Config.np ++ BitVec.ofNat 8 Config.nf ++ BitVec.ofNat 12 c.wnafL ++ BitVec.ofNat 4 c.wnafW

/-- The interrupt output, a level (R33, R110). -/
def State.irq (s : State) : Bool := s.done && s.irqen

/-- START with BUSY = 0: latch CMD, set BUSY, clear DONE and ERR (R102). -/
def State.start (s : State) : State :=
  { s with cl := s.cmd, busy := true, done := false, err := 0#4 }

/-- The end of the completion step, shared by every command and by an illegal word: erase the scratch, then ERR takes
the code, BUSY clears and DONE sets (R103). With a nonzero code this is the whole of an error completion: it saves the
code, changes nothing else and transfers no control (R106, R111). -/
def State.complete (s : State) (code : Completion) : State :=
  { s with scratch := .cleared s.config, err := code.bits, busy := false, done := true }

/-- The platform's reset: every component takes its reset value, the constants hold (R120, R121).
The accesses the host has still to deliver, and the word its last read returned, belong to the host: DESIGN CHOICE, safe
(log 11). -/
def State.resetBlock (s : State) : State :=
  { State.resetOf s.config with events := s.events, reply := s.reply }

end Sys2Proof.Machine
end

