-- ==== Sys2Proof/Machine/Arith.lean ====
section
/-! DEFINITION. Modular arithmetic on integers (spec 00_scope R14; 40_field_ops R59 to R64). -/

namespace Sys2Proof.Machine

/-- `(x + y) mod m` (R60). -/
def addMod (m x y : Nat) : Nat := (x + y) % m

/-- `(x − y) mod m`, the non-negative residue of a difference that may be negative (R14, R61). -/
def subMod (m x y : Nat) : Nat := (((x : Int) - (y : Int)) % (m : Int)).toNat

/-- `(x · y) mod m` (R62). -/
def mulMod (m x y : Nat) : Nat := (x * y) % m

/-- `x ^ e mod m` for an exponent below `2 ^ fuel`, by squaring (R64): `x ^ 0 = 1` for every x. -/
def expMod : (fuel : Nat) → (m x e : Nat) → Nat
  | 0, m, _, _ => 1 % m
  | fuel + 1, m, x, e =>
    let y := expMod fuel m (x * x % m) (e / 2)
    if e % 2 = 1 then x * y % m else y

/-- Euclid's algorithm with the cofactors of the second argument kept mod m: from remainders `r`, `r'` with
`t · a ≡ r` and `t' · a ≡ r'` it ends at the pair of the last nonzero remainder and its cofactor. -/
def euclid (m : Nat) : (fuel r t r' t' : Nat) → Nat × Nat
  | 0, r, t, _, _ => (r, t)
  | fuel + 1, r, t, r', t' =>
    if r' = 0 then (r, t)
    else euclid m fuel r' t' (r % r') (subMod m t (r / r' * t'))

/-- The step count of Euclid's algorithm on 256-bit numbers stays below this bound. -/
def euclidFuel : Nat := 520

/-- `inv_m(a)`: the unique x in [1, m) with `(a · x) mod m = 1`, and none when a and m share a factor (R14, R63). -/
def invMod (m a : Nat) : Option Nat :=
  match euclid m euclidFuel m 0 (a % m) 1 with
  | (r, t) => if r = 1 then some (t % m) else none

end Sys2Proof.Machine
end

