-- ==== Sys2Proof/Machine/Points.lean ====
section
/-! DEFINITION. The point functions neg, dbl, add, same, onc, toAff and toJac (spec 41_point_ops R70 to R77).
They take the curve constants and point values and touch no register. `none` stands for an inverse that does not
exist, the NOINV of R87, R88 and R105; no point value that meets R24 on a curve that meets R9 reaches it. -/

namespace Sys2Proof.Machine

open Sys2Proof

/-- The point value a register holds (R16, R22). -/
def PointReg.val (r : PointReg) : Point :=
  match r.tag with
  | .inf => .inf
  | .aff => .aff r.x.toNat r.y.toNat
  | .jac => .jac r.x.toNat r.y.toNat r.z.toNat

/-- The register that stores a point value: Z = 0 for an affine point, all coordinates 0 for the identity (R23, R24). -/
def Point.reg (v : Point) : PointReg :=
  match v with
  | .inf => .identity
  | .aff x y => ⟨.aff, BitVec.ofNat 256 x, BitVec.ofNat 256 y, 0#256⟩
  | .jac x y z => ⟨.jac, BitVec.ofNat 256 x, BitVec.ofNat 256 y, BitVec.ofNat 256 z⟩

/-- `neg` (R70): the stored coordinate is `(p − y) mod p`. -/
def pointNeg (c : Curve) (v : Point) : Point :=
  match v with
  | .inf => .inf
  | .aff x y => .aff x (subMod c.p.toNat c.p.toNat y)
  | .jac x y z => .jac x (subMod c.p.toNat c.p.toNat y) z

/-- The tangent formulas of `dbl` on an affine point with y ≠ 0 (R71). -/
def dblAffine (c : Curve) (x y : Nat) : Option Point :=
  let p := c.p.toNat
  match invMod p (mulMod p 2 y) with
  | none => none
  | some i =>
    let l := mulMod p (addMod p (mulMod p 3 (mulMod p x x)) c.a.toNat) i
    let x3 := subMod p (mulMod p l l) (mulMod p 2 x)
    let y3 := subMod p (mulMod p l (subMod p x x3)) y
    some (.aff x3 y3)

/-- The doubling formulas of `dbl` on a Jacobian point with Y ≠ 0 (R71). -/
def dblJacobian (c : Curve) (x y z : Nat) : Point :=
  let p := c.p.toNat
  let yy := mulMod p y y
  let zz := mulMod p z z
  let s := mulMod p 4 (mulMod p x yy)
  let m := addMod p (mulMod p 3 (mulMod p x x)) (mulMod p c.a.toNat (mulMod p zz zz))
  let x3 := subMod p (mulMod p m m) (mulMod p 2 s)
  let y3 := subMod p (mulMod p m (subMod p s x3)) (mulMod p 8 (mulMod p yy yy))
  let z3 := mulMod p 2 (mulMod p y z)
  .jac x3 y3 z3

/-- `dbl` (R71): the identity for INF and for y = 0, else the path of the operand's own form. -/
def pointDbl (c : Curve) (v : Point) : Option Point :=
  match v with
  | .inf => some .inf
  | .aff x y => if y = 0 then some .inf else dblAffine c x y
  | .jac x y z => if y = 0 then some .inf else some (dblJacobian c x y z)

/-- The chord formulas of `add` on affine points with different x (R73 step 4). -/
def addAffine (c : Curve) (x1 y1 x2 y2 : Nat) : Option Point :=
  let p := c.p.toNat
  match invMod p (subMod p x2 x1) with
  | none => none
  | some i =>
    let l := mulMod p (subMod p y2 y1) i
    let x3 := subMod p (subMod p (mulMod p l l) x1) x2
    let y3 := subMod p (mulMod p l (subMod p x1 x3)) y1
    some (.aff x3 y3)

/-- The Jacobian path of `add` (R73 step 5). `v` is the first operand in its own form, which case (a) doubles;
(x1, y1, z1) and (x2, y2, z2) are the operands with an affine one promoted to Z = 1. -/
def addJacobian (c : Curve) (v : Point) (x1 y1 z1 x2 y2 z2 : Nat) : Option Point :=
  let p := c.p.toNat
  let z1z1 := mulMod p z1 z1
  let z2z2 := mulMod p z2 z2
  let u1 := mulMod p x1 z2z2
  let u2 := mulMod p x2 z1z1
  let s1 := mulMod p y1 (mulMod p z2z2 z2)
  let s2 := mulMod p y2 (mulMod p z1z1 z1)
  let h := subMod p u2 u1
  let r := subMod p s2 s1
  if h = 0 then
    if r = 0 then pointDbl c v else some .inf
  else
    let hh := mulMod p h h
    let hhh := mulMod p hh h
    let w := mulMod p u1 hh
    let x3 := subMod p (subMod p (mulMod p r r) hhh) (mulMod p 2 w)
    let y3 := subMod p (mulMod p r (subMod p w x3)) (mulMod p s1 hhh)
    let z3 := mulMod p h (mulMod p z1 z2)
    some (.jac x3 y3 z3)

/-- `add` (R73), the dispatch in the order of its steps 1 to 5. -/
def pointAdd (c : Curve) (v w : Point) : Option Point :=
  match v, w with
  | .inf, .inf => some .inf
  | .inf, .aff x2 y2 => some (.aff x2 y2)
  | .inf, .jac x2 y2 z2 => some (.jac x2 y2 z2)
  | .aff x1 y1, .inf => some (.aff x1 y1)
  | .jac x1 y1 z1, .inf => some (.jac x1 y1 z1)
  | .aff x1 y1, .aff x2 y2 =>
    if x1 = x2 then
      if y1 = y2 then pointDbl c (.aff x1 y1) else some .inf
    else addAffine c x1 y1 x2 y2
  | .aff x1 y1, .jac x2 y2 z2 => addJacobian c (.aff x1 y1) x1 y1 1 x2 y2 z2
  | .jac x1 y1 z1, .aff x2 y2 => addJacobian c (.jac x1 y1 z1) x1 y1 z1 x2 y2 1
  | .jac x1 y1 z1, .jac x2 y2 z2 => addJacobian c (.jac x1 y1 z1) x1 y1 z1 x2 y2 z2

/-- The cross-multiplied comparison of `same` on Jacobian coordinates (R72). -/
def sameJacobian (c : Curve) (x1 y1 z1 x2 y2 z2 : Nat) : Bool :=
  let p := c.p.toNat
  let z1z1 := mulMod p z1 z1
  let z2z2 := mulMod p z2 z2
  mulMod p x1 z2z2 == mulMod p x2 z1z1 && mulMod p y1 (mulMod p z2z2 z2) == mulMod p y2 (mulMod p z1z1 z1)

/-- `same` (R72), point equality of two non-identity points, and none where it is not defined. -/
def pointSame (c : Curve) (v w : Point) : Option Bool :=
  match v, w with
  | .aff x1 y1, .aff x2 y2 => some (x1 == x2 && y1 == y2)
  | .aff x1 y1, .jac x2 y2 z2 => some (sameJacobian c x1 y1 1 x2 y2 z2)
  | .jac x1 y1 z1, .aff x2 y2 => some (sameJacobian c x1 y1 z1 x2 y2 1)
  | .jac x1 y1 z1, .jac x2 y2 z2 => some (sameJacobian c x1 y1 z1 x2 y2 z2)
  | .inf, .inf => none
  | .inf, .aff _ _ => none
  | .inf, .jac _ _ _ => none
  | .aff _ _, .inf => none
  | .jac _ _ _, .inf => none

/-- `onc`, the curve-membership test (R74). -/
def pointOnCurve (c : Curve) (v : Point) : Bool :=
  let p := c.p.toNat
  match v with
  | .inf => true
  | .aff x y =>
    mulMod p y y == addMod p (addMod p (mulMod p (mulMod p x x) x) (mulMod p c.a.toNat x)) c.b.toNat
  | .jac x y z =>
    let zz := mulMod p z z
    let z4 := mulMod p zz zz
    let z6 := mulMod p z4 zz
    mulMod p y y ==
      addMod p (addMod p (mulMod p (mulMod p x x) x) (mulMod p (mulMod p c.a.toNat x) z4)) (mulMod p c.b.toNat z6)

/-- `toAff` (R75): one inverse of Z, then X·Z⁻² and Y·Z⁻³; INF and affine points unchanged. -/
def pointToAff (c : Curve) (v : Point) : Option Point :=
  let p := c.p.toNat
  match v with
  | .inf => some .inf
  | .aff x y => some (.aff x y)
  | .jac x y z =>
    match invMod p z with
    | none => none
    | some zi =>
      let zi2 := mulMod p zi zi
      some (.aff (mulMod p x zi2) (mulMod p y (mulMod p zi2 zi)))

/-- `toJac` (R76): an affine point with Z = 1; INF and Jacobian points unchanged. -/
def pointToJac (v : Point) : Point :=
  match v with
  | .inf => .inf
  | .aff x y => .jac x y 1
  | .jac x y z => .jac x y z

end Sys2Proof.Machine
end

