-- ==== Sys2Proof/Machine/Operands.lean ====
section
/-! DEFINITION. The operand forms of the commands: field registers as integers, the selected modulus, point registers
as point values (spec 30_encoding R50 to R52; 40_field_ops R59). -/

namespace Sys2Proof.Machine

open Sys2Proof

/-- The unsigned integer a field register holds, not reduced (R59). -/
def State.natF (s : State) (r : RegIdx) : Nat := (s.readF r).toNat

/-- A field destination takes an integer below 2^256 (R59). -/
def State.writeNatF (s : State) (r : RegIdx) (v : Nat) : State :=
  s.writeF r (BitVec.ofNat 256 v)

/-- The prime p, constant C[0] (R25). -/
def State.prime (s : State) : Nat := s.config.curve.p.toNat

/-- The modulus M selects: p = C[0] or n = C[5] (R51). -/
def State.modulus (s : State) : Modulus → Nat
  | .p => s.config.curve.p.toNat
  | .n => s.config.curve.n.toNat

/-- The point value of a point register (R16). -/
def State.pointOf (s : State) (r : RegIdx) : Point := (s.readPt r).val

/-- A point destination takes a point value (R23). -/
def State.writePoint (s : State) (r : RegIdx) (v : Point) : State :=
  s.writePt r v.reg

/-- The end of a command that writes the point a function gave, or NOINV where an inverse did not exist (R87, R103). -/
def State.finishPoint (s : State) (r : RegIdx) (v : Option Point) : State :=
  match v with
  | some q => (s.writePoint r q).complete .ok
  | none => s.complete .noinv

end Sys2Proof.Machine
end

