-- ==== Sys2Proof/Machine/Flags.lean ====
section
/-! DEFINITION. The condition flags: how each result is encoded, and the operation that writes each flag alone
(spec 10_state R28, R30; 40_field_ops R65 to R67; 41_point_ops R89). -/

namespace Sys2Proof.Machine

open Sys2Proof

/-- CMP's code of the unsigned comparison: 11 for less, 00 for equal, 01 for greater (R30, R65). -/
def compareBits (x y : Value) : BitVec 2 :=
  if x.toNat < y.toNat then 0b11#2 else if x.toNat = y.toNat then 0b00#2 else 0b01#2

/-- ZF's value: the raw integer is 0 (R66). -/
def isZeroFlag (x : Value) : Bool := x.toNat == 0

/-- BITF's value: bit I of the integer (R67). -/
def testBitFlag (x : Value) (i : BitVec 8) : Bool := x.toNat.testBit i.toNat

/-- `STATUS.CMP <- v`. -/
def State.setCmp (s : State) (v : BitVec 2) : State := { s with cmp := v }

/-- `STATUS.ZF <- v`. -/
def State.setZf (s : State) (v : Bool) : State := { s with zf := v }

/-- `STATUS.BITF <- v`. -/
def State.setBitf (s : State) (v : Bool) : State := { s with bitf := v }

/-- `STATUS.ONC <- v`. -/
def State.setOnc (s : State) (v : Bool) : State := { s with onc := v }

/-- All four flags cleared (R101). -/
def State.clearFlags (s : State) : State :=
  { s with cmp := 0b00#2, zf := false, bitf := false, onc := false }

end Sys2Proof.Machine
end

