-- ==== Sys2Proof/Machine/FieldOps.lean ====
section
/-! DEFINITION. The field commands FADD to FLDC (spec 40_field_ops R59 to R69). Each meaning is the completion step of
its command (R103): every source is read in the state before, and the writes happen at once. -/

namespace Sys2Proof.Machine

open Sys2Proof

/-- FADD: `F[D] <- (F[A] + F[B]) mod m` (R60). -/
def execFadd (d a b : RegIdx) (m : Modulus) (s : State) : Host.Outcome State Fault Refusal :=
  .next ((s.writeNatF d (addMod (s.modulus m) (s.natF a) (s.natF b))).complete .ok)

/-- FSUB: `F[D] <- (F[A] − F[B]) mod m` (R61). -/
def execFsub (d a b : RegIdx) (m : Modulus) (s : State) : Host.Outcome State Fault Refusal :=
  .next ((s.writeNatF d (subMod (s.modulus m) (s.natF a) (s.natF b))).complete .ok)

/-- FMUL: `F[D] <- (F[A] · F[B]) mod m` (R62). -/
def execFmul (d a b : RegIdx) (m : Modulus) (s : State) : Host.Outcome State Fault Refusal :=
  .next ((s.writeNatF d (mulMod (s.modulus m) (s.natF a) (s.natF b))).complete .ok)

/-- FINV: `F[D] <- inv_m(F[A])`, or NOINV with nothing written when F[A] mod m shares a factor with m (R63). -/
def execFinv (d a : RegIdx) (m : Modulus) (s : State) : Host.Outcome State Fault Refusal :=
  match invMod (s.modulus m) (s.natF a) with
  | some v => .next ((s.writeNatF d v).complete .ok)
  | none => .next (s.complete .noinv)

/-- FEXP: `F[D] <- (F[A] ^ F[B]) mod m`, the exponent raw (R64). -/
def execFexp (d a b : RegIdx) (m : Modulus) (s : State) : Host.Outcome State Fault Refusal :=
  .next ((s.writeNatF d (expMod 256 (s.modulus m) (s.natF a) (s.natF b))).complete .ok)

/-- FCMP: `STATUS.CMP <-` the unsigned comparison of F[A] with F[B] (R65). -/
def execFcmp (a b : RegIdx) (s : State) : Host.Outcome State Fault Refusal :=
  .next ((s.setCmp (compareBits (s.readF a) (s.readF b))).complete .ok)

/-- FISZ: `STATUS.ZF <- (F[A] = 0)` (R66). -/
def execFisz (a : RegIdx) (s : State) : Host.Outcome State Fault Refusal :=
  .next ((s.setZf (isZeroFlag (s.readF a))).complete .ok)

/-- FTBIT: `STATUS.BITF <- F[A][I]` (R67). -/
def execFtbit (a : RegIdx) (i : BitVec 8) (s : State) : Host.Outcome State Fault Refusal :=
  .next ((s.setBitf (testBitFlag (s.readF a) i)).complete .ok)

/-- FMOV: `F[D] <- F[A]`, no reduction (R68). -/
def execFmov (d a : RegIdx) (s : State) : Host.Outcome State Fault Refusal :=
  .next ((s.writeF d (s.readF a)).complete .ok)

/-- FLDC: `F[D] <- C[I]`; ILLEGAL when I > 6, which the decoder already rejects (R54, R69). -/
def execFldc (d : RegIdx) (i : BitVec 8) (s : State) : Host.Outcome State Fault Refusal :=
  match curveConst s.config.curve i.toNat with
  | some v => .next ((s.writeF d v).complete .ok)
  | none => .next (s.complete .illegal)

end Sys2Proof.Machine
end

