-- ==== Sys2Proof/Machine/PointMoves.lean ====
section
/-! DEFINITION. The commands that build, read and copy points: PSETI, PSETA, PSETJ, PSETG, PGETX, PGETY, PGETZ and
PMOV (spec 41_point_ops R78 to R85). -/

namespace Sys2Proof.Machine

open Sys2Proof

/-- PSETI: `PT[D] <- INF` (R78). -/
def execPseti (d : RegIdx) (s : State) : Host.Outcome State Fault Refusal :=
  .next ((s.writePoint d .inf).complete .ok)

/-- PSETA: `PT[D] <- AFF(F[A] mod p, F[B] mod p)` (R79). -/
def execPseta (d a b : RegIdx) (s : State) : Host.Outcome State Fault Refusal :=
  .next ((s.writePoint d (.aff (s.natF a % s.prime) (s.natF b % s.prime))).complete .ok)

/-- PSETJ: `PT[D] <- JAC(F[A] mod p, F[B] mod p, F[C] mod p)`, or INF when F[C] mod p is 0 (R80). -/
def execPsetj (d a b c : RegIdx) (s : State) : Host.Outcome State Fault Refusal :=
  if s.natF c % s.prime = 0 then .next ((s.writePoint d .inf).complete .ok)
  else
    .next ((s.writePoint d
      (.jac (s.natF a % s.prime) (s.natF b % s.prime) (s.natF c % s.prime))).complete .ok)

/-- PSETG: `PT[D] <- AFF(C[3], C[4])` (R81). -/
def execPsetg (d : RegIdx) (s : State) : Host.Outcome State Fault Refusal :=
  .next ((s.writePoint d (.aff s.config.curve.gx.toNat s.config.curve.gy.toNat)).complete .ok)

/-- PGETX: `F[D] <- PT[A].X`, the stored coordinate (R82). -/
def execPgetx (d a : RegIdx) (s : State) : Host.Outcome State Fault Refusal :=
  .next ((s.writeF d (s.readPt a).x).complete .ok)

/-- PGETY: `F[D] <- PT[A].Y`, the stored coordinate (R83). -/
def execPgety (d a : RegIdx) (s : State) : Host.Outcome State Fault Refusal :=
  .next ((s.writeF d (s.readPt a).y).complete .ok)

/-- PGETZ: `F[D] <- PT[A].Z`, the stored coordinate (R84). -/
def execPgetz (d a : RegIdx) (s : State) : Host.Outcome State Fault Refusal :=
  .next ((s.writeF d (s.readPt a).z).complete .ok)

/-- PMOV: `PT[D] <- PT[A]`, tag and all three coordinates (R85). -/
def execPmov (d a : RegIdx) (s : State) : Host.Outcome State Fault Refusal :=
  .next ((s.writePt d (s.readPt a)).complete .ok)

end Sys2Proof.Machine
end

