-- ==== Sys2Proof/Machine/PointOps.lean ====
section
/-! DEFINITION. The commands that compute on points: PNEG, PDBL, PADD, PONC, PAFF and PJAC (spec 41_point_ops R86 to
R91). -/

namespace Sys2Proof.Machine

open Sys2Proof

/-- PNEG: `PT[D] <- neg(PT[A])` (R86). -/
def execPneg (d a : RegIdx) (s : State) : Host.Outcome State Fault Refusal :=
  .next ((s.writePoint d (pointNeg s.config.curve (s.pointOf a))).complete .ok)

/-- PDBL: `PT[D] <- dbl(PT[A])` (R87). -/
def execPdbl (d a : RegIdx) (s : State) : Host.Outcome State Fault Refusal :=
  .next (s.finishPoint d (pointDbl s.config.curve (s.pointOf a)))

/-- PADD: `PT[D] <- add(PT[A], PT[B])` (R88). -/
def execPadd (d a b : RegIdx) (s : State) : Host.Outcome State Fault Refusal :=
  .next (s.finishPoint d (pointAdd s.config.curve (s.pointOf a) (s.pointOf b)))

/-- PONC: `STATUS.ONC <- onc(PT[A])` (R89). -/
def execPonc (a : RegIdx) (s : State) : Host.Outcome State Fault Refusal :=
  .next ((s.setOnc (pointOnCurve s.config.curve (s.pointOf a))).complete .ok)

/-- PAFF: `PT[D] <- toAff(PT[A])` (R90). -/
def execPaff (d a : RegIdx) (s : State) : Host.Outcome State Fault Refusal :=
  .next (s.finishPoint d (pointToAff s.config.curve (s.pointOf a)))

/-- PJAC: `PT[D] <- toJac(PT[A])` (R91). -/
def execPjac (d a : RegIdx) (s : State) : Host.Outcome State Fault Refusal :=
  .next ((s.writePoint d (pointToJac (s.pointOf a))).complete .ok)

end Sys2Proof.Machine
end

