-- ==== Sys2Proof/Machine/Wnaf.lean ====
section
/-! DEFINITION. The scalar multiplier's encoder, table and main loop (spec 42_scalar_mul R92 to R97), for any window
width W and digit count L. -/

namespace Sys2Proof.Machine

open Sys2Proof

/-- The digit the encoder takes from the working copy `kk` (R92). -/
def wnafDigit (w kk : Nat) : Int :=
  if kk % 2 = 1 then
    let v := kk % 2 ^ w
    if 2 ^ (w - 1) ≤ v then (v : Int) - (2 ^ w : Nat) else (v : Int)
  else 0

/-- The working copy after its digit is taken, `(kk − d) / 2` (R92). -/
def wnafNext (w kk : Nat) : Nat :=
  (((kk : Int) - wnafDigit w kk) / 2).toNat

/-- The `l` digits of the working copy `kk`, least significant first (R92). -/
def wnafDigits (w : Nat) : (l kk : Nat) → List Int
  | 0, _ => []
  | l + 1, kk => wnafDigit w kk :: wnafDigits w l (wnafNext w kk)

/-- The remainder the encoder discards after `l` digits (R92). -/
def wnafRem (w : Nat) : (l kk : Nat) → Nat
  | 0, kk => kk
  | l + 1, kk => wnafRem w l (wnafNext w kk)

/-- The table entries from `t` on, `n` more of them, each the one before it plus `d2` (R94). -/
def tableFrom (c : Curve) (d2 : Point) : (n : Nat) → (t : Point) → Option (List Point)
  | 0, t => some [t]
  | n + 1, t =>
    match pointAdd c t d2 with
    | none => none
    | some t' =>
      match tableFrom c d2 n t' with
      | none => none
      | some ts => some (t :: ts)

/-- The contribution of a digit (R95): INF for 0, else the entry of the digit's magnitude, negated for a negative
digit. -/
def selectEntry (c : Curve) (table : List Point) (d : Int) : Point :=
  if d = 0 then .inf
  else
    let e := table.getD ((d.natAbs - 1) / 2) .inf
    if d < 0 then pointNeg c e else e

/-- The main loop over digits listed least significant first: one `dbl` and one `add` per digit, the most significant
digit first (R96). -/
def multiplyLoop (c : Curve) (table : List Point) : List Int → Option Point
  | [] => some .inf
  | d :: ds =>
    match multiplyLoop c table ds with
    | none => none
    | some acc =>
      match pointDbl c acc with
      | none => none
      | some acc2 => pointAdd c acc2 (selectEntry c table d)

/-- The encoder's run on the scratch: the working copy starts at k and ends at the remainder (R32, R92). -/
def Scratch.encode (x : Scratch) (cfg : Config) (k : Nat) : Scratch :=
  { x with digits := wnafDigits cfg.wnafW cfg.wnafL k, kk := wnafRem cfg.wnafW cfg.wnafL k }

/-- The table's construction on the scratch, from the base point given to this command (R94).
With one entry (W = 2) the doubled point is not computed. -/
def Scratch.buildTable (x : Scratch) (cfg : Config) (v : Point) : Option Scratch :=
  let t0 := pointToJac v
  if 1 < 2 ^ (cfg.wnafW - 2) then
    match pointDbl cfg.curve t0 with
    | none => none
    | some d2 =>
      match tableFrom cfg.curve d2 (2 ^ (cfg.wnafW - 2) - 1) t0 with
      | none => none
      | some ts => some { x with table := ts, d2 := d2 }
  else some { x with table := [t0] }

/-- The main loop's run on the scratch, leaving the result in the accumulator (R96). -/
def Scratch.runLoop (x : Scratch) (cfg : Config) : Option Scratch :=
  match multiplyLoop cfg.curve x.table x.digits with
  | none => none
  | some acc => some { x with acc := acc, idx := 0 }

/-- PSMUL's computation on the scratch: encode k, build the table of the point, run the loop (R98). -/
def Scratch.multiply (x : Scratch) (cfg : Config) (v : Point) (k : Nat) : Option Scratch :=
  match (x.encode cfg k).buildTable cfg v with
  | none => none
  | some y => y.runLoop cfg

end Sys2Proof.Machine
end

