-- ==== Sys2Proof/Machine/ScalarMul.lean ====
section
/-! DEFINITION. The scalar multiplication command PSMUL (spec 42_scalar_mul R98). -/

namespace Sys2Proof.Machine

open Sys2Proof

/-- PSMUL: `PT[D] <- F[B] · PT[A]` through the scratch, which completion erases (R98, R32).
The scalar is the raw integer. The `none` branch is NOINV (R105); the Jacobian paths never reach it. -/
def execPsmul (d a b : RegIdx) (s : State) : Host.Outcome State Fault Refusal :=
  match s.scratch.multiply s.config (s.pointOf a) (s.natF b) with
  | some x => .next ((({ s with scratch := x }).writePoint d x.acc).complete .ok)
  | none => .next (s.complete .noinv)

end Sys2Proof.Machine
end

