-- ==== Sys2Proof/Machine/SystemOps.lean ====
section
/-! DEFINITION. The system commands NOP and ZERO (spec 43_system_ops R100, R101). -/

namespace Sys2Proof.Machine

open Sys2Proof

/-- NOP: no register, point or flag is written (R100). -/
def execNop (s : State) : Host.Outcome State Fault Refusal :=
  .next (s.complete .ok)

/-- Every field register 0 and every point register the canonical identity (R101). -/
def State.eraseFiles (s : State) : State :=
  { s with f := Vector.replicate 16 0#256, pt := Vector.replicate 16 .identity }

/-- ZERO: erase F and PT, clear the four flags (R101). -/
def execZero (s : State) : Host.Outcome State Fault Refusal :=
  .next (s.eraseFiles.clearFlags.complete .ok)

end Sys2Proof.Machine
end

