-- ==== Sys2Proof/Machine/Dispatch.lean ====
section
/-! DEFINITION. The meaning of each command, one arm per constructor (spec 30_encoding R53). -/

namespace Sys2Proof.Machine

def exec (i : Instr) (s : State) : Host.Outcome State Fault Refusal :=
  match i with
  | .nop => Sys2Proof.Machine.execNop s
  | .fadd d a b m => Sys2Proof.Machine.execFadd d a b m s
  | .fsub d a b m => Sys2Proof.Machine.execFsub d a b m s
  | .fmul d a b m => Sys2Proof.Machine.execFmul d a b m s
  | .finv d a m => Sys2Proof.Machine.execFinv d a m s
  | .fexp d a b m => Sys2Proof.Machine.execFexp d a b m s
  | .fcmp a b => Sys2Proof.Machine.execFcmp a b s
  | .fisz a => Sys2Proof.Machine.execFisz a s
  | .ftbit a imm => Sys2Proof.Machine.execFtbit a imm s
  | .fmov d a => Sys2Proof.Machine.execFmov d a s
  | .fldc d imm => Sys2Proof.Machine.execFldc d imm s
  | .pseti d => Sys2Proof.Machine.execPseti d s
  | .pseta d a b => Sys2Proof.Machine.execPseta d a b s
  | .psetj d a b c => Sys2Proof.Machine.execPsetj d a b c s
  | .psetg d => Sys2Proof.Machine.execPsetg d s
  | .pgetx d a => Sys2Proof.Machine.execPgetx d a s
  | .pgety d a => Sys2Proof.Machine.execPgety d a s
  | .pgetz d a => Sys2Proof.Machine.execPgetz d a s
  | .pmov d a => Sys2Proof.Machine.execPmov d a s
  | .pneg d a => Sys2Proof.Machine.execPneg d a s
  | .pdbl d a => Sys2Proof.Machine.execPdbl d a s
  | .padd d a b => Sys2Proof.Machine.execPadd d a b s
  | .ponc a => Sys2Proof.Machine.execPonc a s
  | .paff d a => Sys2Proof.Machine.execPaff d a s
  | .pjac d a => Sys2Proof.Machine.execPjac d a s
  | .psmul d a b => Sys2Proof.Machine.execPsmul d a b s
  | .zero => Sys2Proof.Machine.execZero s

end Sys2Proof.Machine
end

