-- ==== Sys2Proof/Machine/Window.lean ====
section
/-! DEFINITION. The host window: the register map, the 32-bit views of 256-bit values, and what a host read and a host
write do (spec 20_memory R35 to R46; 10_state R26 to R29). -/

namespace Sys2Proof.Machine

open Sys2Proof

/-- What stands at an aligned offset of the window (R36). Indices count registers, then 32-bit words within one. -/
inductive Loc where
  | ident
  | ctrl
  | status
  | cmd
  | cfg
  | fWord (i : Fin 16) (j : Fin 8)
  | ptX (i : Fin 16) (j : Fin 8)
  | ptY (i : Fin 16) (j : Fin 8)
  | ptZ (i : Fin 16) (j : Fin 8)
  | ptTag (i : Fin 16)
  | constWord (c : Fin 7) (j : Fin 8)
  | reserved
  deriving DecidableEq, Repr

/-- The register map (R36) by the offset as a number. -/
def locateNat (o : Nat) : Loc :=
  if o < 0x100 then
    if o = 0x000 then .ident
    else if o = 0x004 then .ctrl
    else if o = 0x008 then .status
    else if o = 0x00C then .cmd
    else if o = 0x010 then .cfg
    else .reserved
  else if o < 0x300 then .fWord (Fin.ofNat 16 ((o - 0x100) / 0x20)) (Fin.ofNat 8 (o % 0x20 / 4))
  else if o < 0x400 then .reserved
  else if o < 0xC00 then
    if o % 0x80 < 0x20 then .ptX (Fin.ofNat 16 ((o - 0x400) / 0x80)) (Fin.ofNat 8 (o % 0x20 / 4))
    else if o % 0x80 < 0x40 then .ptY (Fin.ofNat 16 ((o - 0x400) / 0x80)) (Fin.ofNat 8 (o % 0x20 / 4))
    else if o % 0x80 < 0x60 then .ptZ (Fin.ofNat 16 ((o - 0x400) / 0x80)) (Fin.ofNat 8 (o % 0x20 / 4))
    else if o % 0x80 = 0x60 then .ptTag (Fin.ofNat 16 ((o - 0x400) / 0x80))
    else .reserved
  else if o < 0xCE0 then .constWord (Fin.ofNat 7 ((o - 0xC00) / 0x20)) (Fin.ofNat 8 (o % 0x20 / 4))
  else .reserved

/-- What stands at an aligned offset of the window (R36). -/
def locate (off : Offset) : Loc := locateNat off.toNat

/-- The block admits only accesses of 4 bytes at a multiple of 4 (R37). -/
def admitted (off : Offset) (size : Nat) : Bool :=
  size == 4 && off.toNat % 4 == 0

/-- Word `j` of a 256-bit value, its bits [32j+31:32j] (R38). -/
def getWord (v : Value) (j : Fin 8) : Word :=
  v.extractLsb' (32 * j.val) 32

/-- The value with its word `j` replaced (R39). -/
def setWord (v : Value) (j : Fin 8) (w : Word) : Value :=
  (v &&& ~~~((0xFFFFFFFF#256) <<< (32 * j.val))) ||| ((w.setWidth 256) <<< (32 * j.val))

/-- The CTRL register as the host reads it: IRQEN in bit 1, all other bits 0 (R27). -/
def State.ctrlWord (s : State) : Word :=
  0#30 ++ BitVec.ofBool s.irqen ++ 0#1

/-- The STATUS register as the host reads it (R28). -/
def State.statusWord (s : State) : Word :=
  0#19 ++ BitVec.ofBool s.onc ++ BitVec.ofBool s.bitf ++ BitVec.ofBool s.zf ++ s.cmp ++ s.err ++ 0#1 ++
    BitVec.ofBool s.werr ++ BitVec.ofBool s.done ++ BitVec.ofBool s.busy

/-- The word a location reads as, at any time (R36, R40, R41, R43). -/
def State.readLoc (s : State) : Loc → Word
  | .ident => idWord s.config
  | .ctrl => s.ctrlWord
  | .status => s.statusWord
  | .cmd => s.cmd
  | .cfg => cfgWord s.config
  | .fWord i j => getWord s.f[i.val] j
  | .ptX i j => getWord s.pt[i.val].x j
  | .ptY i j => getWord s.pt[i.val].y j
  | .ptZ i j => getWord s.pt[i.val].z j
  | .ptTag i => (0#30 ++ s.pt[i.val].tag.bits : Word)
  | .constWord c j =>
    match curveConst s.config.curve c.val with
    | some v => getWord v j
    | none => 0#32
  | .reserved => 0#32

/-- A host write to CTRL: IRQEN always takes bit 1; bit 0 starts the command when idle and sets WERR while BUSY
(R27, R42, R102). -/
def State.writeCtrl (s : State) (v : Word) : State :=
  let t := { s with irqen := v.getLsbD 1 }
  if v.getLsbD 0 then
    if s.busy then { t with werr := true } else t.start
  else t

/-- A host write to STATUS clears DONE and WERR where the written bit is 1 (R28). -/
def State.writeStatus (s : State) (v : Word) : State :=
  { s with done := s.done && !v.getLsbD 1, werr := s.werr && !v.getLsbD 2 }

/-- A host write to CMD: accepted when idle, else refused with WERR (R29, R42). -/
def State.writeCmd (s : State) (v : Word) : State :=
  if s.busy then { s with werr := true } else { s with cmd := v }

/-- A host write to a word of a field register: accepted when idle, else refused with WERR (R39, R42). -/
def State.writeFWord (s : State) (i : Fin 16) (j : Fin 8) (v : Word) : State :=
  if s.busy then { s with werr := true }
  else { s with f := s.f.set i.val (setWord s.f[i.val] j v) i.isLt }

/-- What a host write to a location does; reserved and read-only locations ignore it (R39 to R42). -/
def State.writeLoc (s : State) (l : Loc) (v : Word) : State :=
  match l with
  | .ctrl => s.writeCtrl v
  | .status => s.writeStatus v
  | .cmd => s.writeCmd v
  | .fWord i j => s.writeFWord i j v
  | .ident => s
  | .cfg => s
  | .ptX _ _ => s
  | .ptY _ _ => s
  | .ptZ _ _ => s
  | .ptTag _ => s
  | .constWord _ _ => s
  | .reserved => s

/-- The word a host read of the window returns (`MemRead(off, 4)`, R15, R36). -/
def State.readWindow (s : State) (off : Offset) : Word := s.readLoc (locate off)

/-- A host write of the window (`MemWrite(off, 4, v)`, R15, R36). -/
def State.writeWindow (s : State) (off : Offset) (v : Word) : State := s.writeLoc (locate off) v

/-- A host read as a step: the block answers the word and changes nothing (R44); an access it does not admit has no
step (R37). -/
def hostRead (off : Offset) (size : Nat) (s : State) : Host.Outcome State Fault Refusal :=
  if admitted off size then .next { s with reply := some (s.readWindow off) }
  else .fault (.busRefused off size)

/-- A host write as a step (R39 to R42); an access the block does not admit has no step (R37). -/
def hostWrite (off : Offset) (size : Nat) (v : Word) (s : State) : Host.Outcome State Fault Refusal :=
  if admitted off size then .next (s.writeWindow off v)
  else .fault (.busRefused off size)

/-- The window offset of a bus address, if it lies in the block's 4096 bytes (R35). -/
def offsetOf (addr : Nat) : Option Offset :=
  if Config.base ≤ addr ∧ addr < Config.base + 4096 then some (BitVec.ofNat 12 (addr - Config.base)) else none

/-- The event of a host read at a bus address; an address outside the window does not reach the block. -/
def busRead (addr size : Nat) : Option Event :=
  (offsetOf addr).map (fun off => .read off size)

/-- The event of a host write at a bus address; an address outside the window does not reach the block. -/
def busWrite (addr size : Nat) (v : Word) : Option Event :=
  (offsetOf addr).map (fun off => .write off size v)

end Sys2Proof.Machine
end

