-- ==== Sys2Proof/Machine/Engine.lean ====
section
/-! DEFINITION. The two agents' turns: the engine's completion step and the delivery of one event of the sequence of
R46 (spec 10_state R19; 20_memory R46; 60_exceptions R103; 70_reset R120, R121). -/

namespace Sys2Proof.Machine

open Sys2Proof

/-- The completion step decodes the latched word: an illegal one completes with ILLEGAL and writes nothing else, a
legal one takes its command's meaning (R54, R103). -/
def completeLatched (s : State) : Host.Outcome State Fault Refusal :=
  match decode s.cl with
  | .ok i => exec i s
  | .error _ => .next (s.complete .illegal)

/-- The engine's turn: the completion step while BUSY = 1, no step while idle (R19, R103).
DESIGN CHOICE, safe (log 3): "no step" is a stutter. -/
def engineTurn (s : State) : Host.Outcome State Fault Refusal :=
  if s.busy then completeLatched s else .next s

/-- One event takes effect (R46). -/
def deliver (e : Event) (s : State) : Host.Outcome State Fault Refusal :=
  match e with
  | .engine => engineTurn s
  | .reset => .next s.resetBlock
  | .read off size => hostRead off size s
  | .write off size v => hostWrite off size v s

/-- The next event of the sequence; when the host has none pending, it is the engine's turn (R19, R104).
DESIGN CHOICE (log 1): this stands for the fairness of R104; unsafe only for a claim that rests on an empty list. -/
def nextEvent (s : State) : Event × List Event :=
  match s.events with
  | [] => (.engine, [])
  | e :: es => (e, es)

/-- The state with the command word `w` in flight, as the host's write of CMD and a START leave it (R102), and the
engine's turn next. -/
def State.launch (s : State) (w : Word) : State :=
  { ({ s with cmd := w }).start with events := .engine :: s.events }

end Sys2Proof.Machine
end

