-- ==== Sys2Proof/Machine/Step.lean ====
section
/-! DEFINITION. One step of the machine, and the placing of a command word for the next step (spec 20_memory R46,
60_exceptions R103). -/

namespace Sys2Proof.Machine

open Sys2Proof

/-- One step: the next event of R46's sequence takes effect. -/
def step (s : State) : Host.Outcome State Fault Refusal :=
  deliver (nextEvent s).1 { s with events := (nextEvent s).2 }

/-- `s` with the command whose bits are `w` latched and started, so that the very next step completes it.
The block fetches nothing (R20): a command comes to run by the host's writes of CMD and START.
DESIGN CHOICE, safe (log 5): this function stands for those two writes. -/
def State.withFetchWord (s : State) (nbits w : Nat) : State :=
  s.launch (BitVec.ofNat 32 (w % 2 ^ nbits))

end Sys2Proof.Machine
end

