-- ==== Sys2Proof/Machine/Assembler.lean ====
section
/-! DEFINITION. The assembler syntax and the pseudo-instructions (spec 30_encoding R56, R57): from one line of text to
the commands it stands for. The block itself never reads text; the host's program does.
DESIGN CHOICE, safe for the block (log 13): the details of the text that R56 leaves open. -/

namespace Sys2Proof.Machine

open Sys2Proof

/-- Why the assembler rejects a line (R56, R57). -/
inductive AsmError where
  | unknownMnemonic
  /-- A suffix on a command that takes none, or a suffix other than `.p` and `.n`. -/
  | badSuffix
  | wrongOperandCount
  /-- An operand that is no register of the file the command names. -/
  | wrongRegister
  /-- An operand that is no immediate. -/
  | badImmediate
  /-- FTBIT over 255, FLDC over 6. -/
  | immediateRange
  /-- PSUB with ptD = ptA. -/
  | overlap
  deriving DecidableEq, Repr

/-- The characters of the register numbers 0 to 15, in order.
DESIGN CHOICE, safe for the block (log 13): no leading zero. -/
def regNumbers : List (List Char) :=
  [['0'], ['1'], ['2'], ['3'], ['4'], ['5'], ['6'], ['7'], ['8'], ['9'],
   ['1', '0'], ['1', '1'], ['1', '2'], ['1', '3'], ['1', '4'], ['1', '5']]

/-- A register number 0 to 15, written in decimal. -/
def parseRegNumber (cs : List Char) : Except AsmError RegIdx :=
  match regNumbers.idxOf? cs with
  | some k => .ok (BitVec.ofNat 4 k)
  | none => .error .wrongRegister

/-- A field register `f0` to `f15`. -/
def parseF : List Char → Except AsmError RegIdx
  | 'f' :: cs => parseRegNumber cs
  | _ => .error .wrongRegister

/-- A point register `pt0` to `pt15`. -/
def parsePt : List Char → Except AsmError RegIdx
  | 'p' :: 't' :: cs => parseRegNumber cs
  | _ => .error .wrongRegister

/-- The value of a digit of a decimal or hexadecimal number.
DESIGN CHOICE, safe for the block (log 13): R56 does not say which letter case the digits of a hexadecimal number have;
both are accepted. -/
def digitValue (c : Char) : Option Nat :=
  if '0' ≤ c ∧ c ≤ '9' then some (c.toNat - '0'.toNat)
  else if 'a' ≤ c ∧ c ≤ 'f' then some (c.toNat - 'a'.toNat + 10)
  else if 'A' ≤ c ∧ c ≤ 'F' then some (c.toNat - 'A'.toNat + 10)
  else none

/-- The number written by the digits `cs` after a number `n`. -/
def parseDigits (base : Nat) : (n : Nat) → List Char → Option Nat
  | n, [] => some n
  | n, c :: cs =>
    match digitValue c with
    | some k => if k < base then parseDigits base (base * n + k) cs else none
    | none => none

/-- A decimal or `0x` hexadecimal number.
DESIGN CHOICE, safe for the block (log 13): one digit or more, leading zeros allowed, the `x` in lower case. -/
def parseNumber : List Char → Option Nat
  | [] => none
  | ['0', 'x'] => none
  | '0' :: 'x' :: c :: cs => parseDigits 16 0 (c :: cs)
  | c :: cs => parseDigits 10 0 (c :: cs)

/-- An immediate, `#` followed by a number, at most `top`. -/
def parseImm (top : Nat) (cs : List Char) : Except AsmError (BitVec 8) :=
  match cs with
  | '#' :: num =>
    match parseNumber num with
    | some n => if n ≤ top then .ok (BitVec.ofNat 8 n) else .error .immediateRange
    | none => .error .badImmediate
  | _ => .error .badImmediate

/-- The FLDC selector: one of the seven names, or a number up to 6. -/
def parseSelector (cs : List Char) : Except AsmError (BitVec 8) :=
  if cs = ['#', 'P'] then .ok 0#8
  else if cs = ['#', 'A'] then .ok 1#8
  else if cs = ['#', 'B'] then .ok 2#8
  else if cs = ['#', 'G', 'X'] then .ok 3#8
  else if cs = ['#', 'G', 'Y'] then .ok 4#8
  else if cs = ['#', 'N'] then .ok 5#8
  else if cs = ['#', 'H'] then .ok 6#8
  else parseImm 6 cs

/-- Both results, or the first error. -/
def pairOf {α β γ : Type} (x : Except AsmError α) (y : Except AsmError β) (k : α → β → γ) : Except AsmError γ :=
  match x with
  | .error e => .error e
  | .ok a =>
    match y with
    | .error e => .error e
    | .ok b => .ok (k a b)

/-- A line with no operand. -/
def asmNone (ops : List (List Char)) (r : List Instr) : Except AsmError (List Instr) :=
  match ops with
  | [] => .ok r
  | _ => .error .wrongOperandCount

/-- A line with one operand. -/
def asmOne {α : Type} (pa : List Char → Except AsmError α) (ops : List (List Char)) (k : α → List Instr) :
    Except AsmError (List Instr) :=
  match ops with
  | [a] =>
    match pa a with
    | .error e => .error e
    | .ok x => .ok (k x)
  | _ => .error .wrongOperandCount

/-- A line with two operands. -/
def asmTwo {α β : Type} (pa : List Char → Except AsmError α) (pb : List Char → Except AsmError β)
    (ops : List (List Char)) (k : α → β → List Instr) : Except AsmError (List Instr) :=
  match ops with
  | [a, b] => pairOf (pa a) (pb b) k
  | _ => .error .wrongOperandCount

/-- A line with three operands. -/
def asmThree {α β γ : Type} (pa : List Char → Except AsmError α) (pb : List Char → Except AsmError β)
    (pc : List Char → Except AsmError γ) (ops : List (List Char)) (k : α → β → γ → List Instr) :
    Except AsmError (List Instr) :=
  match ops with
  | [a, b, c] =>
    match pairOf (pa a) (pb b) (fun x y => (x, y)) with
    | .error e => .error e
    | .ok (x, y) =>
      match pc c with
      | .error e => .error e
      | .ok z => .ok (k x y z)
  | _ => .error .wrongOperandCount

/-- A line with four operands, the first of the point file and the rest of the field file (PSETJ). -/
def asmPointFromThree (ops : List (List Char)) (k : RegIdx → RegIdx → RegIdx → RegIdx → List Instr) :
    Except AsmError (List Instr) :=
  match ops with
  | [d, a, b, c] =>
    match pairOf (parsePt d) (parseF a) (fun x y => (x, y)), pairOf (parseF b) (parseF c) (fun x y => (x, y)) with
    | .ok (x, y), .ok (z, w) => .ok (k x y z w)
    | .error e, _ => .error e
    | .ok _, .error e => .error e
  | _ => .error .wrongOperandCount

/-- PSUB: `PNEG ptD, ptB` then `PADD ptD, ptA, ptD`, rejected when ptD = ptA (R57). -/
def asmPsub (ops : List (List Char)) : Except AsmError (List Instr) :=
  match asmThree parsePt parsePt parsePt ops (fun d a b => [.pneg d b, .padd d a d]) with
  | .ok [.pneg d b, .padd d' a d''] => if d = a then .error .overlap else .ok [.pneg d b, .padd d' a d'']
  | r => r

/-- The commands of a mnemonic that takes a modulus suffix; none for another mnemonic (R56, R57). -/
def asmModular (name : String) (m : Modulus) (ops : List (List Char)) : Option (Except AsmError (List Instr)) :=
  if name = "FADD" then some (asmThree parseF parseF parseF ops (fun d a b => [.fadd d a b m]))
  else if name = "FSUB" then some (asmThree parseF parseF parseF ops (fun d a b => [.fsub d a b m]))
  else if name = "FMUL" then some (asmThree parseF parseF parseF ops (fun d a b => [.fmul d a b m]))
  else if name = "FINV" then some (asmTwo parseF parseF ops (fun d a => [.finv d a m]))
  else if name = "FEXP" then some (asmThree parseF parseF parseF ops (fun d a b => [.fexp d a b m]))
  else if name = "FSQR" then some (asmTwo parseF parseF ops (fun d a => [.fmul d a a m]))
  else if name = "FDBL" then some (asmTwo parseF parseF ops (fun d a => [.fadd d a a m]))
  else none

/-- The commands of a mnemonic that takes no suffix (R56, R57). -/
def asmPlain (name : String) (ops : List (List Char)) : Except AsmError (List Instr) :=
  if name = "NOP" then asmNone ops [.nop]
  else if name = "ZERO" then asmNone ops [.zero]
  else if name = "FCMP" then asmTwo parseF parseF ops (fun a b => [.fcmp a b])
  else if name = "FISZ" then asmOne parseF ops (fun a => [.fisz a])
  else if name = "FTBIT" then asmTwo parseF (parseImm 255) ops (fun a i => [.ftbit a i])
  else if name = "FMOV" then asmTwo parseF parseF ops (fun d a => [.fmov d a])
  else if name = "FLDC" then asmTwo parseF parseSelector ops (fun d i => [.fldc d i])
  else if name = "PSETI" then asmOne parsePt ops (fun d => [.pseti d])
  else if name = "PSETA" then asmThree parsePt parseF parseF ops (fun d a b => [.pseta d a b])
  else if name = "PSETJ" then asmPointFromThree ops (fun d a b c => [.psetj d a b c])
  else if name = "PSETG" then asmOne parsePt ops (fun d => [.psetg d])
  else if name = "PGETX" then asmTwo parseF parsePt ops (fun d a => [.pgetx d a])
  else if name = "PGETY" then asmTwo parseF parsePt ops (fun d a => [.pgety d a])
  else if name = "PGETZ" then asmTwo parseF parsePt ops (fun d a => [.pgetz d a])
  else if name = "PMOV" then asmTwo parsePt parsePt ops (fun d a => [.pmov d a])
  else if name = "PNEG" then asmTwo parsePt parsePt ops (fun d a => [.pneg d a])
  else if name = "PDBL" then asmTwo parsePt parsePt ops (fun d a => [.pdbl d a])
  else if name = "PADD" then asmThree parsePt parsePt parsePt ops (fun d a b => [.padd d a b])
  else if name = "PONC" then asmOne parsePt ops (fun a => [.ponc a])
  else if name = "PAFF" then asmTwo parsePt parsePt ops (fun d a => [.paff d a])
  else if name = "PJAC" then asmTwo parsePt parsePt ops (fun d a => [.pjac d a])
  else if name = "PSMUL" then asmThree parsePt parsePt parseF ops (fun d a b => [.psmul d a b])
  else if name = "FCLR" then asmOne parseF ops (fun d => [.fsub d d d .p])
  else if name = "PSUB" then asmPsub ops
  else if name = "PSMULG" then asmTwo parsePt parseF ops (fun d b => [.psetg d, .psmul d d b])
  else .error .unknownMnemonic

/-- The commands of a mnemonic, its suffix text (empty when absent) and its operands (R56).
An absent suffix means `.p`. -/
def asmCommand (name : String) (suffix : List Char) (ops : List (List Char)) : Except AsmError (List Instr) :=
  if suffix = [] then
    match asmModular name .p ops with
    | some r => r
    | none => asmPlain name ops
  else if suffix = ['.', 'p'] then
    match asmModular name .p ops with
    | some r => r
    | none => .error .badSuffix
  else if suffix = ['.', 'n'] then
    match asmModular name .n ops with
    | some r => r
    | none => .error .badSuffix
  else .error .badSuffix

/-- Blank space between the parts of a line.
DESIGN CHOICE, safe for the block (log 13): spaces and tabs. -/
def isBlank (c : Char) : Bool := c == ' ' || c == '\t'

/-- A piece of text without the blanks around it. -/
def trimBlanks (cs : List Char) : List Char :=
  ((cs.dropWhile isBlank).reverse.dropWhile isBlank).reverse

/-- The pieces of a text between its commas. -/
def splitCommas : List Char → List (List Char)
  | [] => [[]]
  | c :: cs =>
    if c = ',' then [] :: splitCommas cs
    else
      match splitCommas cs with
      | [] => [[c]]
      | x :: xs => (c :: x) :: xs

/-- The operands of a line: the comma-separated pieces of the text after the mnemonic. -/
def lineOperands (cs : List Char) : List (List Char) :=
  if trimBlanks cs = [] then [] else (splitCommas cs).map trimBlanks

/-- The line without its comment and the blanks around it. -/
def lineBody (cs : List Char) : List Char := trimBlanks (cs.takeWhile (fun c => c != ';'))

/-- The commands of the body of a line: mnemonic (of either case), suffix, operands. -/
def asmBody (cs : List Char) : Except AsmError (List Instr) :=
  let head := cs.takeWhile (fun c => !isBlank c)
  let name := head.takeWhile (fun c => c != '.')
  asmCommand (String.ofList (name.map Char.toUpper)) (head.drop name.length) (lineOperands (cs.drop head.length))

/-- One line of assembly: no command for a blank or comment line (DESIGN CHOICE, log 13), else the command or the commands of a
pseudo-instruction (R56, R57). -/
def asmLine (line : String) : Except AsmError (List Instr) :=
  if lineBody line.toList = [] then .ok [] else asmBody (lineBody line.toList)

/-- The words of one line of assembly. -/
def asmWords (line : String) : Except AsmError (List Word) :=
  match asmLine line with
  | .ok is => .ok (is.map encode)
  | .error e => .error e

end Sys2Proof.Machine
end

