-- ==== Sys2Proof/Machine/Boot.lean ====
section
/-! DEFINITION. Building a block from a configuration, and the configurations the model refuses (spec 00_scope R9,
R11). -/

namespace Sys2Proof.Machine

open Sys2Proof

/-- The block with configuration `c` right after reset; a configuration that breaks R9 or R11 is refused. -/
def bootBlock (c : Config) : Option State :=
  if c.Valid then some (.resetOf c) else none

end Sys2Proof.Machine
end

