-- ==== Sys2Proof/Safety.lean ====
section
/-! DEFINITION. The terms claims are stated in: the launch premises of R131, the invariants of R24, R30, R32 and R105,
what a command leaves unchanged, and which elements of the curve's group a point value stands for. -/

namespace Sys2Proof.Machine

open Sys2Proof

/-- *idle*: BUSY = 0 (R131). -/
def State.Idle (s : State) : Prop := s.busy = false

/-- *no-werr*: WERR = 0 (R131). -/
def State.NoWerr (s : State) : Prop := s.werr = false

/-- *clean-idle* (R122): BUSY, DONE, ERR, WERR 0, F all 0, PT all INF, flags 0. -/
def State.CleanIdle (s : State) : Prop :=
  s.busy = false ∧ s.done = false ∧ s.err = 0#4 ∧ s.werr = false ∧ (∀ r, s.readF r = 0#256) ∧
    (∀ r, s.readPt r = .identity) ∧ s.cmp = 0#2 ∧ s.zf = false ∧ s.bitf = false ∧ s.onc = false

/-- Two states look the same to the host: every admitted read returns the same word. It is the observation of an end
state (R129), which CL and the scratch are not part of. -/
def SameToHost (s t : State) : Prop := ∀ off : Offset, off.toNat % 4 = 0 → s.readWindow off = t.readWindow off

/-- An event a run of R129 may meet: an engine turn or an access the block admits. R129 says nothing of a run a reset
falls into, and an access that is not admitted has no step (R37). -/
def Event.ordinary : Event → Bool
  | .engine => true
  | .reset => false
  | .read off size => admitted off size
  | .write off size _ => admitted off size

/-- A host read, admitted or not. -/
def Event.isRead : Event → Bool
  | .engine => false
  | .reset => false
  | .read _ _ => true
  | .write _ _ _ => false

/-- A host access, admitted or not. -/
def Event.isAccess : Event → Bool
  | .engine => false
  | .reset => false
  | .read _ _ => true
  | .write _ _ _ => true

/-- The steps from `s` to the first state in which `stop` holds, none of them a reset (R129). -/
inductive RunUntil (stop : State → Prop) : State → State → Prop where
  | ended {t : State} : stop t → RunUntil stop t t
  | more {s u t : State} : ¬ stop s → (nextEvent s).1 ≠ .reset → step s = .next u → RunUntil stop u t →
      RunUntil stop s t

/-- The next event of `s` is a START the block accepts: a write of CTRL with bit 0 = 1 while idle (R102). -/
def State.StartAccepted (s : State) : Prop :=
  s.Idle ∧ ∃ v, (nextEvent s).1 = .write 0x004#12 4 v ∧ v.getLsbD 0 = true

/-- A command run (R129): it starts at a START accepted in the idle state `s` and ends at the first following state `t`
with BUSY = 0, whatever the host does in between. -/
def CommandRun (s t : State) : Prop :=
  s.StartAccepted ∧ ∃ u, step s = .next u ∧ RunUntil State.Idle u t

/-- The last host access of the sequence has taken effect (R129). -/
def State.Delivered (s : State) : Prop := ∀ e ∈ s.events, e.isAccess = false

/-- A host program run (R129): the accesses pending in `s` take effect one by one, and the run ends in the first state
`t` with the last of them delivered and BUSY = 0; a command still running is run to its completion step. -/
def HostProgramRun (s t : State) : Prop := RunUntil (fun u => u.Delivered ∧ u.Idle) s t

/-- The invariants (i) to (iv) of a point register under the prime `p` (R24); (v) holds by the type `Tag`. -/
def PointReg.Ok (p : Nat) (r : PointReg) : Prop :=
  r.x.toNat < p ∧ r.y.toNat < p ∧ r.z.toNat < p ∧
    match r.tag with
    | .aff => r.z = 0#256
    | .jac => r.z ≠ 0#256
    | .inf => r.x = 0#256 ∧ r.y = 0#256 ∧ r.z = 0#256

/-- A point value of R16: coordinates in [0, p), and Z ≠ 0 in a Jacobian point. -/
def Point.Ok (p : Nat) (v : Point) : Prop :=
  match v with
  | .inf => True
  | .aff x y => x < p ∧ y < p
  | .jac x y z => x < p ∧ y < p ∧ z < p ∧ z ≠ 0

/-- The identity or a Jacobian point, the forms the scalar multiplier works with (R97). -/
def Point.isJacobian (v : Point) : Bool :=
  match v with
  | .inf => true
  | .aff _ _ => false
  | .jac _ _ _ => true

/-- *valid-points*: every point register satisfies R24 (R131). -/
def State.PointsOk (s : State) : Prop := ∀ r, (s.readPt r).Ok s.prime

/-- What every step keeps: an accepted configuration (R9), valid points (R24), CMP never 10 (R30), ERR at most 2
(R105), an erased scratch between commands (R32), and, while a command runs, DONE = 0, ERR = 0 and CMD unchanged
since the START (R29, R31, R102). -/
def State.Inv (s : State) : Prop :=
  s.config.Valid ∧ s.PointsOk ∧ s.cmp ≠ 0b10#2 ∧ s.err.toNat ≤ 2 ∧ s.scratch = .cleared s.config ∧
    (s.busy = true → s.done = false ∧ s.err = 0#4 ∧ s.cl = s.cmd)

/-- Every field register is unchanged. -/
def SameF (s t : State) : Prop := ∀ r, t.readF r = s.readF r

/-- Every field register but `d` is unchanged. -/
def SameFExcept (d : RegIdx) (s t : State) : Prop := ∀ r, r ≠ d → t.readF r = s.readF r

/-- Every point register is unchanged. -/
def SamePt (s t : State) : Prop := ∀ r, t.readPt r = s.readPt r

/-- Every point register but `d` is unchanged. -/
def SamePtExcept (d : RegIdx) (s t : State) : Prop := ∀ r, r ≠ d → t.readPt r = s.readPt r

/-- The four condition flags are unchanged. -/
def SameFlags (s t : State) : Prop := t.cmp = s.cmp ∧ t.zf = s.zf ∧ t.bitf = s.bitf ∧ t.onc = s.onc

/-- What every completion does with the rest of the state (R103): ERR takes the code, BUSY clears, DONE sets, the
scratch is erased; the constants, CMD, the latch, IRQEN, WERR and the host's side are unchanged. -/
def Completes (s t : State) (code : Completion) : Prop :=
  t.err = code.bits ∧ t.busy = false ∧ t.done = true ∧ t.scratch = .cleared s.config ∧
    t.config = s.config ∧ t.cmd = s.cmd ∧ t.cl = s.cl ∧ t.irqen = s.irqen ∧ t.werr = s.werr ∧
    t.events = s.events ∧ t.reply = s.reply

/-- A field command's whole effect: it completes with code OK, F[d] holds `v`, and nothing else changes. -/
def WritesOnlyF (s t : State) (d : RegIdx) (v : Nat) : Prop :=
  Completes s t .ok ∧ (t.readF d).toNat = v ∧ SameFExcept d s t ∧ SamePt s t ∧ SameFlags s t

/-- A point command's whole effect: it completes with code OK, PT[d] holds `v`, and nothing else changes. -/
def WritesOnlyPt (s t : State) (d : RegIdx) (v : PointReg) : Prop :=
  Completes s t .ok ∧ t.readPt d = v ∧ SamePtExcept d s t ∧ SameF s t ∧ SameFlags s t

/-- An error completion's whole effect: the code, and nothing else (R106). -/
def WritesNothing (s t : State) (code : Completion) : Prop :=
  Completes s t code ∧ SameF s t ∧ SamePt s t ∧ SameFlags s t

/-- The integer a list of digits stands for, least significant first: `Σ digit[i]·2^i` (R93). -/
def digitSum : List Int → Int
  | [] => 0
  | d :: ds => d + 2 * digitSum ds

/-- The curve's equation y² = x³ + ax + b over the integers mod p, as a Weierstrass curve. -/
def weierstrassOf (c : Curve) : WeierstrassCurve.Affine (ZMod c.p.toNat) where
  a₁ := 0
  a₂ := 0
  a₃ := 0
  a₄ := (c.a.toNat : ZMod c.p.toNat)
  a₆ := (c.b.toNat : ZMod c.p.toNat)

/-- The point value `v` stands for the element `e` of the curve's group: the identity for INF, the point (x, y) for
AFF(x, y), the point (X/Z², Y/Z³) for JAC(X, Y, Z) (R16). -/
def Represents (c : Curve) [Fact (Nat.Prime c.p.toNat)] (v : Point) (e : (weierstrassOf c).Point) : Prop :=
  match v with
  | .inf => e = 0
  | .aff x y => ∃ h, e = .some (x : ZMod c.p.toNat) (y : ZMod c.p.toNat) h
  | .jac x y z =>
    (z : ZMod c.p.toNat) ≠ 0 ∧
      ∃ h, e = .some ((x : ZMod c.p.toNat) / (z : ZMod c.p.toNat) ^ 2)
        ((y : ZMod c.p.toNat) / (z : ZMod c.p.toNat) ^ 3) h

end Sys2Proof.Machine
end

