-- ==== Sys2Proof/Certificates/Slice0/Obligations.lean ====
section
/-! DEFINITION. The statements for the provers, one `def Obligations.<Name> : Prop` each, from the numbered rules of
the spec. -/

open Sys2Proof Sys2Proof.Machine

/-! ## Encoding -/

/-- R49, R50, R53: the word built for a legal command decodes to that command, every operand at every value. -/
def Obligations.DecodeOfEncodedCommand : Prop :=
  ∀ i : Instr, i.wellFormed = true → decode (encode i) = .ok i

/-- R54, R55: a word that decodes has no bit outside its command: it is the word the encoder builds, and the command
is legal. -/
def Obligations.EncodeOfDecodedWord : Prop :=
  ∀ (w : Word) (i : Instr), decode w = .ok i → i.wellFormed = true ∧ encode i = w

/-- R54, "Equivalently": a word is legal exactly when some row of the opcode table has `(w AND mask) = match` and, for
FLDC, w[7:0] ≤ 6. -/
def Obligations.LegalWordsMatchOpcodeTable : Prop :=
  ∀ w : Word, (∃ i, decode w = .ok i) ↔
    ∃ r ∈ opcodeTable, w &&& r.mask = r.bits ∧ (r.mnemonic = "FLDC" → (w.extractLsb' 0 8).toNat ≤ 6)

/-- R53, R54: the reserved opcodes are exactly 0x0B–0x0F, 0x1E–0x1F, 0x21–0x2F and 0x31–0x3F; a modular command with
M ≥ 2 and an FLDC with a selector above 6 are rejected. -/
def Obligations.ReservedAndMalformedWordsRejected : Prop :=
  (∀ w : Word, decode w = .error .reservedOpcode ↔
    let op := (w.extractLsb' 26 6).toNat
    (0x0B ≤ op ∧ op ≤ 0x0F) ∨ (0x1E ≤ op ∧ op ≤ 0x1F) ∨ (0x21 ≤ op ∧ op ≤ 0x2F) ∨ 0x31 ≤ op) ∧
  (∀ w : Word, 1 ≤ (w.extractLsb' 26 6).toNat → (w.extractLsb' 26 6).toNat ≤ 5 → w.getLsbD 9 = true →
    ∀ i, decode w ≠ .ok i) ∧
  (∀ w : Word, (w.extractLsb' 26 6).toNat = 0x0A → 6 < (w.extractLsb' 0 8).toNat → ∀ i, decode w ≠ .ok i)

/-- R58: the assembly lines and words of the table of examples, and the illegal examples. -/
def Obligations.EncodingExamples : Prop :=
  asmWords "FADD.p f3, f1, f2" = .ok [0x04C48000#32] ∧
  asmWords "FMUL.n f0, f4, f5" = .ok [0x0C114100#32] ∧
  asmWords "FINV.p f7, f6" = .ok [0x11D80000#32] ∧
  asmWords "FTBIT f2, #255" = .ok [0x200800FF#32] ∧
  asmWords "FLDC f9, #N" = .ok [0x2A400005#32] ∧
  asmWords "PSETJ pt1, f1, f2, f3" = .ok [0x48448C00#32] ∧
  asmWords "PADD pt2, pt0, pt1" = .ok [0x68804000#32] ∧
  asmWords "PSMUL pt3, pt0, f15" = .ok [0x80C3C000#32] ∧
  asmWords "PGETX f3, pt1" = .ok [0x50C40000#32] ∧
  asmWords "PONC pt5" = .ok [0x6C140000#32] ∧
  asmWords "ZERO" = .ok [0xC0000000#32] ∧
  decode 0x04C48000#32 = .ok (.fadd 3 1 2 .p) ∧
  decode 0x0C114100#32 = .ok (.fmul 0 4 5 .n) ∧
  decode 0x11D80000#32 = .ok (.finv 7 6 .p) ∧
  decode 0x200800FF#32 = .ok (.ftbit 2 255) ∧
  decode 0x2A400005#32 = .ok (.fldc 9 5) ∧
  decode 0x48448C00#32 = .ok (.psetj 1 1 2 3) ∧
  decode 0x68804000#32 = .ok (.padd 2 0 1) ∧
  decode 0x80C3C000#32 = .ok (.psmul 3 0 15) ∧
  decode 0x50C40000#32 = .ok (.pgetx 3 1) ∧
  decode 0x6C140000#32 = .ok (.ponc 5) ∧
  decode 0xC0000000#32 = .ok .zero ∧
  (∀ i, decode 0x04000400#32 ≠ .ok i) ∧ (∀ i, decode 0x04000200#32 ≠ .ok i) ∧
  (∀ i, decode 0x28000007#32 ≠ .ok i) ∧ (∀ i, decode 0x2C000000#32 ≠ .ok i) ∧
  (∀ i, decode 0x00000001#32 ≠ .ok i)

/-- R56: the assembler never emits an illegal word, whatever the line. -/
def Obligations.AssemblerEmitsLegalWords : Prop :=
  ∀ (line : String) (ws : List Word), asmWords line = .ok ws → ∀ w ∈ ws, ∃ i, decode w = .ok i

/-- R57: the pseudo-instructions and their expansions, for all registers and both moduli; PSUB is rejected when
ptD = ptA. -/
def Obligations.PseudoInstructionExpansions : Prop :=
  ∀ (m : Modulus) (x y z : List Char) (d a b : RegIdx),
    let suffix := match m with
      | .p => ['.', 'p']
      | .n => ['.', 'n']
    (parseF x = .ok d → parseF y = .ok a →
      asmCommand "FSQR" suffix [x, y] = .ok [.fmul d a a m] ∧
      asmCommand "FDBL" suffix [x, y] = .ok [.fadd d a a m]) ∧
    (parseF x = .ok d → asmCommand "FCLR" [] [x] = .ok [.fsub d d d .p]) ∧
    (parsePt x = .ok d → parsePt y = .ok a → parsePt z = .ok b →
      asmCommand "PSUB" [] [x, y, z] = if d = a then .error .overlap else .ok [.pneg d b, .padd d a d]) ∧
    (parsePt x = .ok d → parseF y = .ok b →
      asmCommand "PSMULG" [] [x, y] = .ok [.psetg d, .psmul d d b])

/-! ## One step -/

/-- R103: while BUSY = 1, an engine turn runs the command the latch decodes to; the step takes only its own event off
the host's sequence. -/
def Obligations.StepRunsLatchedCommand : Prop :=
  ∀ (s : State) (es : List Event) (i : Instr), s.busy = true → nextEvent s = (.engine, es) →
    decode s.cl = .ok i → step s = exec i { s with events := es }

/-- R54, R103: while BUSY = 1, an engine turn with an illegal word in the latch completes with ERR = 1 and writes
nothing else. -/
def Obligations.StepOnIllegalWord : Prop :=
  ∀ (s : State) (es : List Event) (e : DecodeError), s.busy = true → nextEvent s = (.engine, es) →
    decode s.cl = .error e →
    ∃ t, step s = .next t ∧ WritesNothing { s with events := es } t .illegal ∧ t.err = 1#4

/-- R19: the engine takes no step while it is idle: its turn leaves everything as it was. -/
def Obligations.IdleEngineTurnChangesNothing : Prop :=
  ∀ (s : State) (es : List Event), s.busy = false → nextEvent s = (.engine, es) →
    step s = .next { s with events := es }

/-- R104, R106, R129, R131: a command run from any idle state ends, whatever admitted accesses the host makes before the
engine's turn. In its end state BUSY = 0, DONE = 1, ERR is 0, 1 or 2, and 1 exactly when the word that was in CMD is
illegal; with ERR ≠ 0 every F, every PT and every flag is as it was at the START; F, PT, flags and ERR are those of a
completion right after the START. If the host only reads in between, the end state looks to it as after that completion.
A host program run over admitted accesses ends, in one state; one whose accesses are all delivered while BUSY = 1 goes on
to the completion.
That runs end (clauses 1, 4 and 5) has no fairness premise: where no engine turn is pending it rests on the model's choice
that an empty sequence is the engine's turn (log 1, DESIGN CHOICE), which stands for the weak fairness R104 and R128 ask a
claim of progress to name. What a run is follows the model's reading of R129 (log 17, DEDUCED): no reset falls into it. -/
def Obligations.CommandRunEnds : Prop :=
  (∀ (s : State) (v : Word) (es : List Event), s.busy = false → s.events = .write 0x004#12 4 v :: es →
    v.getLsbD 0 = true → (∀ e ∈ es.takeWhile (fun e => e != .engine), e.ordinary = true) → ∃ t, CommandRun s t) ∧
  (∀ s t : State, CommandRun s t → t.Idle ∧ t.done = true ∧ t.err.toNat ≤ 2 ∧
    (t.err = 1#4 ↔ ∀ i, decode s.cmd ≠ .ok i) ∧
    (t.err ≠ 0#4 → SameF s t ∧ SamePt s t ∧ SameFlags s t) ∧
    t.cmd = s.cmd ∧ t.cl = s.cmd ∧ t.config = s.config ∧ t.scratch = .cleared s.config ∧
    ∃ u, completeLatched s.start = .next u ∧ t.f = u.f ∧ t.pt = u.pt ∧ SameFlags u t ∧ t.err = u.err) ∧
  (∀ (s t : State) (v : Word) (es : List Event), s.events = .write 0x004#12 4 v :: es →
    (∀ e ∈ es.takeWhile (fun e => e != .engine), e.isRead = true) → CommandRun s t →
    ∃ u, completeLatched { s.start with irqen := v.getLsbD 1 } = .next u ∧ SameToHost u t) ∧
  (∀ s : State, (∀ e ∈ s.events, e.ordinary = true) → ∃ t, HostProgramRun s t ∧ ∀ t', HostProgramRun s t' → t' = t) ∧
  (∀ s t : State, s.busy = true → s.Delivered → HostProgramRun s t → t.Idle ∧ t.done = true)

/-- R27, R102, R42: a host write to CTRL with bit 0 = 1 starts the command in CMD when idle; while BUSY = 1 the START part
is refused and sets WERR. IRQEN takes bit 1 in both cases; with bit 0 = 0 that is the write's whole effect, idle or busy,
so no other bit matters. CTRL reads as IRQEN in bit 1 and 0 in every other bit; both fields reset to 0; IRQEN enables the interrupt output. -/
def Obligations.StartLatchesCommand : Prop :=
  (∀ (s : State) (es : List Event) (v : Word), s.events = .write 0x004#12 4 v :: es →
    (v.getLsbD 0 = true → s.busy = false → step s = .next { s with
      events := es
      cl := s.cmd
      busy := true
      done := false
      err := 0#4
      irqen := v.getLsbD 1 }) ∧
    (v.getLsbD 0 = true → s.busy = true →
      step s = .next { s with events := es, werr := true, irqen := v.getLsbD 1 }) ∧
    (v.getLsbD 0 = false → step s = .next { s with events := es, irqen := v.getLsbD 1 })) ∧
  (∀ s : State, s.readWindow 0x004#12 = if s.irqen then 2#32 else 0#32) ∧
  State.reset.readWindow 0x004#12 = 0#32 ∧ (∀ s : State, s.irq = if s.irqen then s.done else false)

/-- R120, R122: the state after reset, component by component; it is clean-idle and irq is 0. That a scratch point of
zeros is AFF(0, 0) is the model's choice (log 8, DESIGN CHOICE). -/
def Obligations.ResetValues : Prop :=
  let s := State.reset
  (∀ r, s.readF r = 0#256) ∧ (∀ r, s.readPt r = ⟨.inf, 0#256, 0#256, 0#256⟩) ∧ s.cmd = 0#32 ∧ s.irqen = false ∧
    s.busy = false ∧ s.done = false ∧ s.werr = false ∧ s.err = 0#4 ∧ s.cmp = 0b00#2 ∧ s.zf = false ∧
    s.bitf = false ∧ s.onc = false ∧ s.cl = 0#32 ∧ s.scratch = .cleared s.config ∧ s.config = .hardware ∧
    (∀ d ∈ s.scratch.digits, d = 0) ∧ s.scratch.kk = 0 ∧ s.scratch.idx = 0 ∧
    (∀ v ∈ s.scratch.table, v = .aff 0 0) ∧ s.scratch.d2 = .aff 0 0 ∧ s.scratch.acc = .aff 0 0 ∧
    s.irq = false ∧ s.CleanIdle ∧
    s.readWindow 0x000#12 = 0xEC3D0001#32 ∧ s.readWindow 0x010#12 = 0x10101015#32

/-- R121: a reset, also in the middle of a command, leaves the reset state; the constants hold, and the host's side of
the model (events still to come, last word read) is the host's. -/
def Obligations.ResetAbortsCommand : Prop :=
  ∀ (s : State) (es : List Event), s.events = .reset :: es →
    ∃ t, step s = .next t ∧ t = { State.resetOf s.config with events := es, reply := s.reply } ∧
      t.busy = false ∧ t.scratch = .cleared s.config ∧ (∀ r, t.readF r = 0#256) ∧ (∀ r, t.readPt r = .identity)

/-- R24, R30, R31, R32, R105: what every step keeps, whichever event it delivers. -/
def Obligations.InvariantKeptByEveryStep : Prop :=
  ∀ s t : State, s.Inv → step s = .next t → t.Inv

/-- R24, R120: the invariant holds right after reset. -/
def Obligations.InvariantHoldsAtReset : Prop :=
  State.reset.Inv

/-! ## The host window -/

/-- R37: an access of 4 bytes at a multiple of 4 has a step; every other access has none, reads and writes alike. -/
def Obligations.OnlyAlignedWordAccessesStep : Prop :=
  ∀ (s : State) (es : List Event) (off : Offset) (size : Nat) (v : Word),
    (s.events = .read off size :: es →
      if size = 4 ∧ off.toNat % 4 = 0 then
        step s = .next { s with events := es, reply := some (s.readWindow off) }
      else step s = .fault (.busRefused off size)) ∧
    (s.events = .write off size v :: es →
      if size = 4 ∧ off.toNat % 4 = 0 then step s = .next ({ s with events := es }.writeWindow off v)
      else step s = .fault (.busRefused off size))

/-- R36, R38, R40, R41: what each offset of the register map reads as. -/
def Obligations.WindowReads : Prop :=
  ∀ s : State,
    s.readWindow 0x000#12 = s.config.ident ∧ s.readWindow 0x004#12 = s.ctrlWord ∧
    s.readWindow 0x008#12 = s.statusWord ∧ s.readWindow 0x00C#12 = s.cmd ∧
    s.readWindow 0x010#12 = cfgWord s.config ∧
    (∀ (i : RegIdx) (j : Fin 8),
      s.readWindow (BitVec.ofNat 12 (0x100 + 0x20 * i.toNat + 4 * j.val)) = (s.readF i).extractLsb' (32 * j.val) 32 ∧
      s.readWindow (BitVec.ofNat 12 (0x400 + 0x80 * i.toNat + 4 * j.val)) = (s.readPt i).x.extractLsb' (32 * j.val) 32 ∧
      s.readWindow (BitVec.ofNat 12 (0x420 + 0x80 * i.toNat + 4 * j.val)) = (s.readPt i).y.extractLsb' (32 * j.val) 32 ∧
      s.readWindow (BitVec.ofNat 12 (0x440 + 0x80 * i.toNat + 4 * j.val)) = (s.readPt i).z.extractLsb' (32 * j.val) 32) ∧
    (∀ i : RegIdx, s.readWindow (BitVec.ofNat 12 (0x460 + 0x80 * i.toNat)) =
      match (s.readPt i).tag with
      | .aff => 0#32
      | .jac => 1#32
      | .inf => 2#32) ∧
    (∀ j : Fin 8,
      s.readWindow (BitVec.ofNat 12 (0xC00 + 4 * j.val)) = s.config.curve.p.extractLsb' (32 * j.val) 32 ∧
      s.readWindow (BitVec.ofNat 12 (0xC20 + 4 * j.val)) = s.config.curve.a.extractLsb' (32 * j.val) 32 ∧
      s.readWindow (BitVec.ofNat 12 (0xC40 + 4 * j.val)) = s.config.curve.b.extractLsb' (32 * j.val) 32 ∧
      s.readWindow (BitVec.ofNat 12 (0xC60 + 4 * j.val)) = s.config.curve.gx.extractLsb' (32 * j.val) 32 ∧
      s.readWindow (BitVec.ofNat 12 (0xC80 + 4 * j.val)) = s.config.curve.gy.extractLsb' (32 * j.val) 32 ∧
      s.readWindow (BitVec.ofNat 12 (0xCA0 + 4 * j.val)) = s.config.curve.n.extractLsb' (32 * j.val) 32 ∧
      s.readWindow (BitVec.ofNat 12 (0xCC0 + 4 * j.val)) = s.config.curve.h.extractLsb' (32 * j.val) 32) ∧
    (∀ off : Offset, off.toNat % 4 = 0 →
      (0x014 ≤ off.toNat ∧ off.toNat < 0x100) ∨ (0x300 ≤ off.toNat ∧ off.toNat < 0x400) ∨
        (0x400 ≤ off.toNat ∧ off.toNat < 0xC00 ∧ 0x64 ≤ off.toNat % 0x80) ∨ 0xCE0 ≤ off.toNat →
      s.readWindow off = 0#32)

/-- R27, R28: where each field stands in the CTRL and STATUS words; every other bit reads 0. -/
def Obligations.ControlAndStatusLayout : Prop :=
  ∀ s : State,
    s.statusWord.getLsbD 0 = s.busy ∧ s.statusWord.getLsbD 1 = s.done ∧ s.statusWord.getLsbD 2 = s.werr ∧
    s.statusWord.getLsbD 3 = false ∧ s.statusWord.extractLsb' 4 4 = s.err ∧ s.statusWord.extractLsb' 8 2 = s.cmp ∧
    s.statusWord.getLsbD 10 = s.zf ∧ s.statusWord.getLsbD 11 = s.bitf ∧ s.statusWord.getLsbD 12 = s.onc ∧
    s.statusWord.extractLsb' 13 19 = 0#19 ∧
    s.ctrlWord.getLsbD 0 = false ∧ s.ctrlWord.getLsbD 1 = s.irqen ∧ s.ctrlWord.extractLsb' 2 30 = 0#30

/-- R28: a host write to STATUS clears DONE and WERR where the written bit is 1 and changes nothing else, busy or not. -/
def Obligations.StatusWriteClearsDoneAndWerr : Prop :=
  ∀ (s : State) (es : List Event) (v : Word), s.events = .write 0x008#12 4 v :: es →
    step s = .next { s with
      events := es
      done := if v.getLsbD 1 then false else s.done
      werr := if v.getLsbD 2 then false else s.werr }

/-- R39: a host write to word j of F[i] while idle replaces bits [32j+31:32j] and leaves the other 224 bits, every other
register and the rest of the state; the word reads back as written. -/
def Obligations.FieldWordWriteWhileIdle : Prop :=
  ∀ (s : State) (es : List Event) (i : RegIdx) (j : Fin 8) (v : Word), s.busy = false →
    s.events = .write (BitVec.ofNat 12 (0x100 + 0x20 * i.toNat + 4 * j.val)) 4 v :: es →
    ∃ x : Value, step s = .next ({ s with events := es }.writeF i x) ∧
      (∀ k, k < 256 → x.getLsbD k =
        if 32 * j.val ≤ k ∧ k < 32 * j.val + 32 then v.getLsbD (k - 32 * j.val) else (s.readF i).getLsbD k) ∧
      ({ s with events := es }.writeF i x).readWindow
        (BitVec.ofNat 12 (0x100 + 0x20 * i.toNat + 4 * j.val)) = v

/-- R29: a host write to CMD while idle is the next command word and changes nothing else. -/
def Obligations.CommandWriteWhileIdle : Prop :=
  ∀ (s : State) (es : List Event) (v : Word), s.busy = false → s.events = .write 0x00C#12 4 v :: es →
    step s = .next { s with events := es, cmd := v }

/-- R42: while BUSY = 1 a write to CMD, to any F word, or of START is refused, sets WERR and changes nothing else but
IRQEN in the last; WERR then stays 1 until the host writes 1 to STATUS bit 2 (or a reset); writes to STATUS, to CTRL
without START, to reserved offsets and to read-only registers act as they do while BUSY = 0. -/
def Obligations.BusyWritesRefused : Prop :=
  (∀ (s : State) (es : List Event) (off : Offset) (v : Word), s.busy = true → off.toNat % 4 = 0 →
    s.events = .write off 4 v :: es →
    ((off.toNat = 0x00C ∨ (0x100 ≤ off.toNat ∧ off.toNat < 0x300)) →
      step s = .next { s with events := es, werr := true }) ∧
    (off.toNat = 0x004 → v.getLsbD 0 = true →
      step s = .next { s with events := es, werr := true, irqen := v.getLsbD 1 }) ∧
    (off.toNat = 0x004 → v.getLsbD 0 = false → step s = .next { s with events := es, irqen := v.getLsbD 1 }) ∧
    (off.toNat = 0x008 → step s = .next { s with
      events := es
      done := if v.getLsbD 1 then false else s.done
      werr := if v.getLsbD 2 then false else s.werr }) ∧
    ((off.toNat = 0x000 ∨ (0x010 ≤ off.toNat ∧ off.toNat < 0x100) ∨ 0x300 ≤ off.toNat) →
      step s = .next { s with events := es })) ∧
  (∀ s t : State, s.werr = true → step s = .next t → t.werr = true ∨ (nextEvent s).1 = .reset ∨
    ∃ v, (nextEvent s).1 = .write 0x008#12 4 v ∧ v.getLsbD 2 = true)

/-- R41: a host write to a reserved offset or to a read-only register (ID, CFG, PT, C) changes no state and does not set
WERR, busy or not; a read of a reserved offset returns 0; the reserved bits of CTRL and STATUS read 0 and writing them
has no effect. -/
def Obligations.ReservedAndReadOnlyWritesIgnored : Prop :=
  (∀ (s : State) (es : List Event) (off : Offset) (v : Word), off.toNat % 4 = 0 →
    (off.toNat = 0x000 ∨ (0x010 ≤ off.toNat ∧ off.toNat < 0x100) ∨ 0x300 ≤ off.toNat) →
    s.events = .write off 4 v :: es → step s = .next { s with events := es }) ∧
  (∀ (s : State) (off : Offset), off.toNat % 4 = 0 →
    (0x014 ≤ off.toNat ∧ off.toNat < 0x100) ∨ (0x300 ≤ off.toNat ∧ off.toNat < 0x400) ∨
      (0x400 ≤ off.toNat ∧ off.toNat < 0xC00 ∧ 0x64 ≤ off.toNat % 0x80) ∨ 0xCE0 ≤ off.toNat →
    s.readWindow off = 0#32) ∧
  (∀ s : State, s.statusWord &&& 0xFFFFE008#32 = 0#32 ∧ s.ctrlWord &&& 0xFFFFFFFC#32 = 0#32) ∧
  (∀ (s : State) (v w : Word), v &&& 0x00000006#32 = w &&& 0x00000006#32 →
    s.writeWindow 0x008#12 v = s.writeWindow 0x008#12 w) ∧
  (∀ (s : State) (v w : Word), v &&& 0x00000003#32 = w &&& 0x00000003#32 →
    s.writeWindow 0x004#12 v = s.writeWindow 0x004#12 w)

/-- R110: irq is a level; only a completion sets DONE; a completion, with or without an error, raises irq exactly when
IRQEN = 1; a write of 1 to DONE, a START and IRQEN ← 0 each lower it; a refused write, which sets WERR, leaves it. -/
def Obligations.InterruptFollowsDoneAndEnable : Prop :=
  (∀ s : State, s.irq = (s.done && s.irqen)) ∧
  (∀ s t : State, s.done = false → step s = .next t → t.done = true →
    s.busy = true ∧ (nextEvent s).1 = .engine) ∧
  (∀ s t : State, completeLatched s = .next t → t.irq = s.irqen) ∧
  (∀ (s : State) (v : Word), v.getLsbD 1 = true → (s.writeWindow 0x008#12 v).irq = false) ∧
  (∀ (s : State) (v : Word), s.busy = false → v.getLsbD 0 = true → (s.writeWindow 0x004#12 v).irq = false) ∧
  (∀ (s : State) (v : Word), v.getLsbD 1 = false → (s.writeWindow 0x004#12 v).irq = false) ∧
  (∀ (s : State) (v : Word), s.busy = true → (s.writeWindow 0x00C#12 v).irq = s.irq)

/-- R122: a host that takes over an idle block, issues ZERO and then writes 0b110 to STATUS finds it clean-idle, with
the word of ZERO in CMD, the IRQEN it last wrote and an erased scratch. -/
def Obligations.TakeoverReachesCleanIdle : Prop :=
  ∀ (s : State) (v : Word) (es : List Event), s.busy = false → v.getLsbD 0 = true →
    s.events = .write 0x00C#12 4 0xC0000000#32 :: .write 0x004#12 4 v :: .engine :: .write 0x008#12 4 6#32 :: es →
    ∃ t, Host.Core.run Sys2Proof.core 4 s = .next t ∧ t.CleanIdle ∧ t.cmd = 0xC0000000#32 ∧
      t.irqen = v.getLsbD 1 ∧ t.scratch = .cleared s.config ∧ t.events = es

/-! ## Completion, for every command -/

/-- R103: every command completes: its step is a next state in which ERR holds the code, BUSY = 0, DONE = 1, the scratch
is erased, and CMD, the latch, IRQEN, WERR and the constants are unchanged. A legal command never reports ILLEGAL. -/
def Obligations.EveryCommandCompletes : Prop :=
  ∀ (i : Instr) (s : State), ∃ t code, exec i s = .next t ∧ Completes s t code ∧
    (i.wellFormed = true → code ≠ .illegal)

/-- R106: a command that completes with ERR ≠ 0 leaves every field register, every point register and every flag. -/
def Obligations.ErrorsWriteNothing : Prop :=
  ∀ (i : Instr) (s t : State), exec i s = .next t → t.err ≠ 0#4 → SameF s t ∧ SamePt s t ∧ SameFlags s t

/-- R105: under an accepted configuration and valid points, NOINV comes from FINV alone, and only when the operand shares
a factor with the modulus. -/
def Obligations.OnlyFinvReportsNoinv : Prop :=
  ∀ (i : Instr) (s t : State), s.config.Valid → s.PointsOk → exec i s = .next t → t.err = 2#4 →
    ∃ d a m, i = .finv d a m ∧ Nat.gcd (s.natF a % s.modulus m) (s.modulus m) ≠ 1

/-- R20, R31, R32: what a command writes to F, PT, the flags and ERR depends on F, PT, the flags and the constants
alone: not on the scratch, CMD, the latch, the status bits or anything the host did. -/
def Obligations.ResultsIgnoreHiddenState : Prop :=
  ∀ (i : Instr) (s u : State), u.config = s.config → u.f = s.f → u.pt = s.pt → SameFlags s u →
    ∃ t t', exec i s = .next t ∧ exec i u = .next t' ∧ t'.f = t.f ∧ t'.pt = t.pt ∧ SameFlags t t' ∧ t'.err = t.err

/-! ## Field commands -/

/-- R60: FADD writes (F[A] + F[B]) mod m to F[D], exactly, whatever the operands, and nothing else. -/
def Obligations.FaddResult : Prop :=
  ∀ (d a b : RegIdx) (m : Modulus) (s : State), s.config.Valid →
    (∃ t, exec (.fadd d a b m) s = .next t ∧
      WritesOnlyF s t d (((s.readF a).toNat + (s.readF b).toNat) % s.modulus m)) ∧
    encode (.fadd d a b m) = 0x01#6 ++ d ++ a ++ b ++ 0#4 ++ m.bits ++ 0#8

/-- R61: FSUB writes the non-negative residue of F[A] − F[B] to F[D] and nothing else. -/
def Obligations.FsubResult : Prop :=
  ∀ (d a b : RegIdx) (m : Modulus) (s : State), s.config.Valid →
    (∃ t v, exec (.fsub d a b m) s = .next t ∧ WritesOnlyF s t d v ∧
      (v : Int) = (((s.readF a).toNat : Int) - ((s.readF b).toNat : Int)) % (s.modulus m : Int)) ∧
    encode (.fsub d a b m) = 0x02#6 ++ d ++ a ++ b ++ 0#4 ++ m.bits ++ 0#8

/-- R62: FMUL writes the exact product mod m to F[D] and nothing else. -/
def Obligations.FmulResult : Prop :=
  ∀ (d a b : RegIdx) (m : Modulus) (s : State), s.config.Valid →
    (∃ t, exec (.fmul d a b m) s = .next t ∧
      WritesOnlyF s t d (((s.readF a).toNat * (s.readF b).toNat) % s.modulus m)) ∧
    encode (.fmul d a b m) = 0x03#6 ++ d ++ a ++ b ++ 0#4 ++ m.bits ++ 0#8

/-- R63: FINV writes the unique inverse in [1, m) to F[D] and nothing else when F[A] mod m shares no factor with m;
otherwise it completes with NOINV (2) and writes nothing. Modulo the prime p it fails exactly on F[A] ≡ 0. -/
def Obligations.FinvResult : Prop :=
  ∀ (d a : RegIdx) (m : Modulus) (s : State), s.config.Valid →
    (Nat.gcd ((s.readF a).toNat % s.modulus m) (s.modulus m) = 1 →
      ∃ t v, exec (.finv d a m) s = .next t ∧ WritesOnlyF s t d v ∧ 1 ≤ v ∧ v < s.modulus m ∧
        ((s.readF a).toNat % s.modulus m * v) % s.modulus m = 1 ∧
        ∀ u, 1 ≤ u → u < s.modulus m → ((s.readF a).toNat % s.modulus m * u) % s.modulus m = 1 → u = v) ∧
    (Nat.gcd ((s.readF a).toNat % s.modulus m) (s.modulus m) ≠ 1 →
      ∃ t, exec (.finv d a m) s = .next t ∧ WritesNothing s t .noinv ∧ t.err = 2#4) ∧
    ((s.modulus m).Prime →
      (Nat.gcd ((s.readF a).toNat % s.modulus m) (s.modulus m) ≠ 1 ↔ (s.readF a).toNat % s.modulus m = 0)) ∧
    encode (.finv d a m) = 0x04#6 ++ d ++ a ++ 0#4 ++ 0#4 ++ m.bits ++ 0#8

/-- R64: FEXP writes F[A] ^ F[B] mod m to F[D] and nothing else, the exponent raw and 0 ^ 0 = 1. -/
def Obligations.FexpResult : Prop :=
  ∀ (d a b : RegIdx) (m : Modulus) (s : State), s.config.Valid →
    (∃ t v, exec (.fexp d a b m) s = .next t ∧ WritesOnlyF s t d v ∧
      v = ((s.readF a).toNat ^ (s.readF b).toNat) % s.modulus m ∧ ((s.readF b).toNat = 0 → v = 1)) ∧
    encode (.fexp d a b m) = 0x05#6 ++ d ++ a ++ b ++ 0#4 ++ m.bits ++ 0#8

/-- R65: FCMP writes CMP alone: 11 for less, 00 for equal, 01 for greater, unsigned and unreduced. -/
def Obligations.FcmpResult : Prop :=
  ∀ (a b : RegIdx) (s : State), encode (.fcmp a b) = 0x06#6 ++ 0#4 ++ a ++ b ++ 0#4 ++ 0#2 ++ 0#8 ∧
    ∃ t, exec (.fcmp a b) s = .next t ∧ Completes s t .ok ∧ SameF s t ∧ SamePt s t ∧
    t.zf = s.zf ∧ t.bitf = s.bitf ∧ t.onc = s.onc ∧
    ((s.readF a).toNat < (s.readF b).toNat → t.cmp = 0b11#2) ∧
    ((s.readF a).toNat = (s.readF b).toNat → t.cmp = 0b00#2) ∧
    ((s.readF b).toNat < (s.readF a).toNat → t.cmp = 0b01#2)

/-- R66: FISZ writes ZF alone: 1 exactly when the raw integer is 0. -/
def Obligations.FiszResult : Prop :=
  ∀ (a : RegIdx) (s : State), encode (.fisz a) = 0x07#6 ++ 0#4 ++ a ++ 0#4 ++ 0#4 ++ 0#2 ++ 0#8 ∧
    ∃ t, exec (.fisz a) s = .next t ∧ Completes s t .ok ∧ SameF s t ∧ SamePt s t ∧
    t.cmp = s.cmp ∧ t.bitf = s.bitf ∧ t.onc = s.onc ∧ (t.zf = true ↔ s.readF a = 0#256)

/-- R67: FTBIT writes BITF alone: bit I of F[A]. -/
def Obligations.FtbitResult : Prop :=
  ∀ (a : RegIdx) (i : BitVec 8) (s : State), encode (.ftbit a i) = 0x08#6 ++ 0#4 ++ a ++ 0#4 ++ 0#4 ++ 0#2 ++ i ∧
    ∃ t, exec (.ftbit a i) s = .next t ∧ Completes s t .ok ∧ SameF s t ∧
    SamePt s t ∧ t.cmp = s.cmp ∧ t.zf = s.zf ∧ t.onc = s.onc ∧ t.bitf = (s.readF a).getLsbD i.toNat

/-- R68: FMOV copies F[A] to F[D] bit for bit and nothing else; D = A leaves F unchanged. -/
def Obligations.FmovResult : Prop :=
  ∀ (d a : RegIdx) (s : State), encode (.fmov d a) = 0x09#6 ++ d ++ a ++ 0#4 ++ 0#4 ++ 0#2 ++ 0#8 ∧
    ∃ t, exec (.fmov d a) s = .next t ∧ WritesOnlyF s t d (s.readF a).toNat ∧
    (d = a → SameF s t)

/-- R69: FLDC writes constant C[c] to F[D] and nothing else for c = 0 to 6; a selector above 6 completes with ILLEGAL and
writes nothing. -/
def Obligations.FldcResult : Prop :=
  ∀ (d : RegIdx) (i : BitVec 8) (s : State), encode (.fldc d i) = 0x0A#6 ++ d ++ 0#4 ++ 0#4 ++ 0#4 ++ 0#2 ++ i ∧
    let c := s.config.curve
    ∀ v : Value, (i = 0#8 ∧ v = c.p) ∨ (i = 1#8 ∧ v = c.a) ∨ (i = 2#8 ∧ v = c.b) ∨ (i = 3#8 ∧ v = c.gx) ∨
        (i = 4#8 ∧ v = c.gy) ∨ (i = 5#8 ∧ v = c.n) ∨ (i = 6#8 ∧ v = c.h) ∨ 6 < i.toNat →
      ∃ t, exec (.fldc d i) s = .next t ∧
        if i.toNat ≤ 6 then WritesOnlyF s t d v.toNat else WritesNothing s t .illegal ∧ t.err = 1#4

/-! ## Point commands -/

/-- R78, R81: PSETI loads the canonical identity and PSETG the base point AFF(C[3], C[4]) into PT[D], and nothing else. -/
def Obligations.PsetiPsetgResult : Prop :=
  ∀ (d : RegIdx) (s : State),
    encode (.pseti d) = 0x10#6 ++ d ++ 0#4 ++ 0#4 ++ 0#4 ++ 0#2 ++ 0#8 ∧
    encode (.psetg d) = 0x13#6 ++ d ++ 0#4 ++ 0#4 ++ 0#4 ++ 0#2 ++ 0#8 ∧
    (∃ t, exec (.pseti d) s = .next t ∧ WritesOnlyPt s t d ⟨.inf, 0#256, 0#256, 0#256⟩) ∧
    (∃ t, exec (.psetg d) s = .next t ∧ WritesOnlyPt s t d ⟨.aff, s.config.curve.gx, s.config.curve.gy, 0#256⟩)

/-- R79: PSETA builds the affine point of the two reduced coordinates in PT[D], with Z = 0, and nothing else. -/
def Obligations.PsetaResult : Prop :=
  ∀ (d a b : RegIdx) (s : State), s.config.Valid → ∃ t q, exec (.pseta d a b) s = .next t ∧ WritesOnlyPt s t d q ∧
    q.tag = .aff ∧ q.x.toNat = (s.readF a).toNat % s.prime ∧ q.y.toNat = (s.readF b).toNat % s.prime ∧ q.z = 0#256

/-- R80: PSETJ builds the Jacobian point of the three reduced coordinates in PT[D], or the canonical identity when the
reduced Z is 0, and nothing else. -/
def Obligations.PsetjResult : Prop :=
  ∀ (d a b c : RegIdx) (s : State), s.config.Valid →
    encode (.psetj d a b c) = 0x12#6 ++ d ++ a ++ b ++ c ++ 0#2 ++ 0#8 ∧ ∃ t q, exec (.psetj d a b c) s = .next t ∧
    WritesOnlyPt s t d q ∧
    if (s.readF c).toNat % s.prime = 0 then q = .identity
    else q.tag = .jac ∧ q.x.toNat = (s.readF a).toNat % s.prime ∧ q.y.toNat = (s.readF b).toNat % s.prime ∧
      q.z.toNat = (s.readF c).toNat % s.prime

/-- R82, R83, R84: PGETX, PGETY and PGETZ copy the stored coordinate of PT[A] to F[D] and nothing else. -/
def Obligations.PgetResults : Prop :=
  ∀ (d a : RegIdx) (s : State),
    (∃ t, exec (.pgetx d a) s = .next t ∧ WritesOnlyF s t d (s.readPt a).x.toNat) ∧
    (∃ t, exec (.pgety d a) s = .next t ∧ WritesOnlyF s t d (s.readPt a).y.toNat) ∧
    (∃ t, exec (.pgetz d a) s = .next t ∧ WritesOnlyF s t d (s.readPt a).z.toNat)

/-- R85: PMOV copies tag and coordinates of PT[A] to PT[D] and nothing else; D = A changes no point. -/
def Obligations.PmovResult : Prop :=
  ∀ (d a : RegIdx) (s : State), encode (.pmov d a) = 0x17#6 ++ d ++ a ++ 0#4 ++ 0#4 ++ 0#2 ++ 0#8 ∧
    ∃ t, exec (.pmov d a) s = .next t ∧ WritesOnlyPt s t d (s.readPt a) ∧
    (d = a → SamePt s t)

/-- R70, R86: PNEG of INF is INF; otherwise form, X and Z are kept and Y becomes (p − Y) mod p. -/
def Obligations.PnegResult : Prop :=
  ∀ (d a : RegIdx) (s : State), s.config.Valid → s.PointsOk → ∃ t q, exec (.pneg d a) s = .next t ∧
    WritesOnlyPt s t d q ∧ q.tag = (s.readPt a).tag ∧
    if (s.readPt a).tag = .inf then q = .identity
    else q.x = (s.readPt a).x ∧ q.y.toNat = (s.prime - (s.readPt a).y.toNat) % s.prime ∧ q.z = (s.readPt a).z

/-- R71, R87: PDBL of INF and of a point with y = 0 is INF; an affine point doubles by the tangent slope λ with
λ·2y = 3x² + a, a Jacobian point by the formulas S, M, X3, Y3, Z3; all in the integers mod p, the stored coordinates
reduced. -/
def Obligations.PdblResult : Prop :=
  ∀ (d a : RegIdx) (s : State), s.config.Valid → s.PointsOk → ∃ t q, exec (.pdbl d a) s = .next t ∧
    WritesOnlyPt s t d q ∧ q.Ok s.prime ∧
    let x : ZMod s.prime := (s.readPt a).x.toNat
    let y : ZMod s.prime := (s.readPt a).y.toNat
    let z : ZMod s.prime := (s.readPt a).z.toNat
    let ca : ZMod s.prime := s.config.curve.a.toNat
    let x3 : ZMod s.prime := q.x.toNat
    let y3 : ZMod s.prime := q.y.toNat
    let z3 : ZMod s.prime := q.z.toNat
    match (s.readPt a).tag with
    | .inf => q = .identity
    | .aff =>
      if (s.readPt a).y = 0#256 then q = .identity
      else q.tag = .aff ∧ ∃ l, l * (2 * y) = 3 * x ^ 2 + ca ∧ x3 = l ^ 2 - 2 * x ∧ y3 = l * (x - x3) - y
    | .jac =>
      if (s.readPt a).y = 0#256 then q = .identity
      else q.tag = .jac ∧ ∃ sS mM, sS = 4 * x * y ^ 2 ∧ mM = 3 * x ^ 2 + ca * z ^ 4 ∧ x3 = mM ^ 2 - 2 * sS ∧
        y3 = mM * (sS - x3) - 8 * y ^ 4 ∧ z3 = 2 * y * z

/-- R73, R88: PADD by the dispatch of R73: identities pass the other operand through; two affine points take the chord
slope λ with λ·(xQ − xP) = yQ − yP, give INF on a vertical line and dbl of the first operand on the same point; any pair
with a Jacobian operand takes the Jacobian formulas with an affine operand at Z = 1, INF for H = 0, r ≠ 0 and dbl of the
first operand for H = r = 0. -/
def Obligations.PaddResult : Prop :=
  ∀ (d a b : RegIdx) (s : State), s.config.Valid → s.PointsOk → ∃ t q, exec (.padd d a b) s = .next t ∧
    WritesOnlyPt s t d q ∧ q.Ok s.prime ∧
    let u := s.readPt a
    let v := s.readPt b
    let x1 : ZMod s.prime := u.x.toNat
    let y1 : ZMod s.prime := u.y.toNat
    let z1 : ZMod s.prime := if u.tag = .aff then 1 else (u.z.toNat : ZMod s.prime)
    let x2 : ZMod s.prime := v.x.toNat
    let y2 : ZMod s.prime := v.y.toNat
    let z2 : ZMod s.prime := if v.tag = .aff then 1 else (v.z.toNat : ZMod s.prime)
    let x3 : ZMod s.prime := q.x.toNat
    let y3 : ZMod s.prime := q.y.toNat
    let z3 : ZMod s.prime := q.z.toNat
    let doubled := ∃ p, pointDbl s.config.curve u.val = some p ∧ q = p.reg
    if u.tag = .inf then q = v
    else if v.tag = .inf then q = u
    else if u.tag = .aff ∧ v.tag = .aff then
      if u.x = v.x then
        if u.y = v.y then doubled else q = .identity
      else q.tag = .aff ∧ ∃ l, l * (x2 - x1) = y2 - y1 ∧ x3 = l ^ 2 - x1 - x2 ∧ y3 = l * (x1 - x3) - y1
    else
      ∃ u1 u2 s1 s2 h r, u1 = x1 * z2 ^ 2 ∧ u2 = x2 * z1 ^ 2 ∧ s1 = y1 * z2 ^ 3 ∧ s2 = y2 * z1 ^ 3 ∧
        h = u2 - u1 ∧ r = s2 - s1 ∧
        (h = 0 → r = 0 → doubled) ∧ (h = 0 → r ≠ 0 → q = .identity) ∧
        (h ≠ 0 → q.tag = .jac ∧ x3 = r ^ 2 - h ^ 3 - 2 * u1 * h ^ 2 ∧
          y3 = r * (u1 * h ^ 2 - x3) - s1 * h ^ 3 ∧ z3 = h * z1 * z2)

/-- R72, R73: on valid non-identity points `same` says whether the operands stand for one affine point. If they do, PADD
doubles its first operand; if not, it gives INF when their affine x agree, and otherwise a point that stands for the chord
sum of the two affine points, with slope l where l·(x2 − x1) = y2 − y1; whatever the two forms. -/
def Obligations.SamePointsDouble : Prop :=
  ∀ (c : Curve) (v w : Point), c.Valid → v.Ok c.p.toNat → w.Ok c.p.toNat → v ≠ .inf → w ≠ .inf →
    ∃ e x1 y1 x2 y2, pointSame c v w = some e ∧ pointToAff c v = some (.aff x1 y1) ∧
      pointToAff c w = some (.aff x2 y2) ∧ (e = true ↔ x1 = x2 ∧ y1 = y2) ∧
      (e = true → pointAdd c v w = pointDbl c v) ∧
      (e = false → x1 = x2 → pointAdd c v w = some .inf) ∧
      (e = false → x1 ≠ x2 → ∃ q x3 y3, pointAdd c v w = some q ∧ pointToAff c q = some (.aff x3 y3) ∧
        ∃ l : ZMod c.p.toNat, l * (x2 - x1) = y2 - y1 ∧ (x3 : ZMod c.p.toNat) = l ^ 2 - x1 - x2 ∧
          (y3 : ZMod c.p.toNat) = l * (x1 - x3) - y1)

/-- R74, R89: PONC writes ONC alone: 1 for INF, and for the other forms exactly when the curve's equation holds mod p. -/
def Obligations.PoncResult : Prop :=
  ∀ (a : RegIdx) (s : State), s.config.Valid → ∃ t, exec (.ponc a) s = .next t ∧ Completes s t .ok ∧ SameF s t ∧
    SamePt s t ∧ t.cmp = s.cmp ∧ t.zf = s.zf ∧ t.bitf = s.bitf ∧
    let x : ZMod s.prime := (s.readPt a).x.toNat
    let y : ZMod s.prime := (s.readPt a).y.toNat
    let z : ZMod s.prime := (s.readPt a).z.toNat
    let ca : ZMod s.prime := s.config.curve.a.toNat
    let cb : ZMod s.prime := s.config.curve.b.toNat
    match (s.readPt a).tag with
    | .inf => t.onc = true
    | .aff => t.onc = true ↔ y ^ 2 = x ^ 3 + ca * x + cb
    | .jac => t.onc = true ↔ y ^ 2 = x ^ 3 + ca * x * z ^ 4 + cb * z ^ 6

/-- R75, R90: PAFF leaves INF and an affine point; a Jacobian point (X, Y, Z) becomes the affine (x, y) with x·Z² = X and
y·Z³ = Y mod p. -/
def Obligations.PaffResult : Prop :=
  ∀ (d a : RegIdx) (s : State), s.config.Valid → s.PointsOk → ∃ t q, exec (.paff d a) s = .next t ∧
    WritesOnlyPt s t d q ∧ q.Ok s.prime ∧
    if (s.readPt a).tag = .jac then
      q.tag = .aff ∧
      (q.x.toNat : ZMod s.prime) * ((s.readPt a).z.toNat : ZMod s.prime) ^ 2 = (s.readPt a).x.toNat ∧
      (q.y.toNat : ZMod s.prime) * ((s.readPt a).z.toNat : ZMod s.prime) ^ 3 = (s.readPt a).y.toNat
    else q = s.readPt a

/-- R76, R91: PJAC gives an affine point Z = 1 and leaves INF and a Jacobian point. -/
def Obligations.PjacResult : Prop :=
  ∀ (d a : RegIdx) (s : State), s.config.Valid → s.PointsOk → ∃ t q, exec (.pjac d a) s = .next t ∧
    WritesOnlyPt s t d q ∧
    if (s.readPt a).tag = .aff then q = ⟨.jac, (s.readPt a).x, (s.readPt a).y, 1#256⟩ else q = s.readPt a

/-- R16, R70, R71, R73, R75, R76: on points that stand for elements of the curve's group, PADD adds, PDBL doubles, PNEG
negates, and PAFF, PJAC and PMOV keep the element, in every combination of forms. -/
def Obligations.PointCommandsFollowGroupLaw : Prop :=
  ∀ (s : State) [Fact (Nat.Prime s.config.curve.p.toNat)] (d a b : RegIdx)
    (e f : (weierstrassOf s.config.curve).Point), s.config.Valid → s.PointsOk →
    Represents s.config.curve (s.pointOf a) e → Represents s.config.curve (s.pointOf b) f →
    (∃ t, exec (.padd d a b) s = .next t ∧ t.err = 0#4 ∧ Represents s.config.curve (t.pointOf d) (e + f)) ∧
    (∃ t, exec (.pdbl d a) s = .next t ∧ t.err = 0#4 ∧ Represents s.config.curve (t.pointOf d) (e + e)) ∧
    (∃ t, exec (.pneg d a) s = .next t ∧ t.err = 0#4 ∧ Represents s.config.curve (t.pointOf d) (-e)) ∧
    (∃ t, exec (.paff d a) s = .next t ∧ t.err = 0#4 ∧ Represents s.config.curve (t.pointOf d) e) ∧
    (∃ t, exec (.pjac d a) s = .next t ∧ t.err = 0#4 ∧ Represents s.config.curve (t.pointOf d) e) ∧
    (∃ t, exec (.pmov d a) s = .next t ∧ t.err = 0#4 ∧ Represents s.config.curve (t.pointOf d) e)

/-! ## Scalar multiplication -/

/-- R93: for every k below 2^256 and every W from 2 to 8, each digit is 0 or odd with magnitude at most 2^(W−1) − 1, the
digits sum to k − rem·2^L, the working copy stays below 2^257, and for L ≥ 257 the remainder is 0 and the sum is k. -/
def Obligations.WnafDigitsRepresentScalar : Prop :=
  ∀ w l k : Nat, 2 ≤ w → w ≤ 8 → k < 2 ^ 256 →
    (wnafDigits w l k).length = l ∧
    (∀ d ∈ wnafDigits w l k, d = 0 ∨ (d % 2 = 1 ∧ d.natAbs ≤ 2 ^ (w - 1) - 1)) ∧
    digitSum (wnafDigits w l k) = (k : Int) - (wnafRem w l k : Int) * 2 ^ l ∧
    (∀ n, wnafRem w n k < 2 ^ 257) ∧
    (257 ≤ l → wnafRem w l k = 0 ∧ digitSum (wnafDigits w l k) = k)

/-- R97, R98: PSMUL completes with code OK in every state, writes PT[D] alone, and its result is INF or Jacobian. -/
def Obligations.PsmulCompletes : Prop :=
  ∀ (d a b : RegIdx) (s : State), ∃ t q, exec (.psmul d a b) s = .next t ∧ WritesOnlyPt s t d q ∧ q.tag ≠ .aff

/-- R98, corner cases: k = 0 gives the identity; P = INF gives the identity for every k; k = 1 gives the promoted point
exactly (with at least one digit). -/
def Obligations.PsmulCornerCases : Prop :=
  ∀ (d a b : RegIdx) (s : State), s.config.Valid → s.PointsOk →
    (s.readF b = 0#256 → ∃ t, exec (.psmul d a b) s = .next t ∧ WritesOnlyPt s t d .identity) ∧
    ((s.readPt a).tag = .inf → ∃ t, exec (.psmul d a b) s = .next t ∧ WritesOnlyPt s t d .identity) ∧
    (s.readF b = 1#256 → 1 ≤ s.config.wnafL →
      ∃ t, exec (.psmul d a b) s = .next t ∧ WritesOnlyPt s t d (pointToJac (s.pointOf a)).reg)

/-- R92 to R98: the multiplier computes k·P with respect to the block's own point functions: any map of the points in
play into an additive group that turns neg, dbl and add into negation, doubling and addition takes PSMUL's result to
k times the image of the promoted point. No point need be on the curve. -/
def Obligations.PsmulComputesMultipleOfItsPoint : Prop :=
  ∀ (A : Type) [AddCommGroup A] (f : Point → A) (good : Point → Prop) (d a b : RegIdx) (s : State),
    s.config.Valid → 257 ≤ s.config.wnafL → good .inf → f .inf = 0 →
    (∀ v, good v → good (pointNeg s.config.curve v) ∧ f (pointNeg s.config.curve v) = -f v) →
    (∀ v q, good v → pointDbl s.config.curve v = some q → good q ∧ f q = f v + f v) →
    (∀ v w q, good v → good w → pointAdd s.config.curve v w = some q → good q ∧ f q = f v + f w) →
    good (pointToJac (s.pointOf a)) →
    ∃ t v, exec (.psmul d a b) s = .next t ∧ WritesOnlyPt s t d v.reg ∧ good v ∧
      f v = (s.readF b).toNat • f (pointToJac (s.pointOf a))

/-- R98: on a point that stands for an element of the curve's group, PSMUL leaves a point that stands for k times it, for
every 256-bit k, with L ≥ 257 digits as on this hardware. -/
def Obligations.PsmulFollowsGroupLaw : Prop :=
  ∀ (s : State) [Fact (Nat.Prime s.config.curve.p.toNat)] (d a b : RegIdx)
    (e : (weierstrassOf s.config.curve).Point), s.config.Valid → s.PointsOk → 257 ≤ s.config.wnafL →
    Represents s.config.curve (s.pointOf a) e →
    ∃ t, exec (.psmul d a b) s = .next t ∧ t.err = 0#4 ∧
      Represents s.config.curve (t.pointOf d) ((s.readF b).toNat • e)

/-! ## System commands -/

/-- R100: NOP, the word 0, writes no register, point or flag; opcode 0 with any other bit set is ILLEGAL; a START right
after reset runs NOP and completes with ERR = 0 and DONE = 1, nothing else changed but IRQEN, which takes the START's
bit 1 (two steps: the START and the engine's turn, whatever events follow). -/
def Obligations.NopResult : Prop :=
  (∀ s : State, ∃ t, exec .nop s = .next t ∧ WritesNothing s t .ok) ∧ encode .nop = 0#32 ∧
  (∀ w : Word, (w.extractLsb' 26 6).toNat = 0 → w ≠ 0#32 → decode w = .error .unusedField) ∧
  ∀ (v : Word) (es : List Event), v.getLsbD 0 = true →
    Host.Core.run Sys2Proof.core 2 { State.reset with events := .write 0x004#12 4 v :: .engine :: es } =
      .next { State.reset with irqen := v.getLsbD 1, done := true, events := es }

/-- R101: ZERO, the word 0xC0000000, leaves every F register 0, every PT register the canonical identity and every flag
0; CMD, IRQEN, WERR and the constants are unchanged; opcode 0x30 with any other bit set is ILLEGAL; ZERO after ZERO
changes nothing. -/
def Obligations.ZeroErasesRegisters : Prop :=
  (∀ s : State, ∃ t, exec .zero s = .next t ∧ Completes s t .ok ∧ (∀ r, t.readF r = 0#256) ∧
    (∀ r, t.readPt r = ⟨.inf, 0#256, 0#256, 0#256⟩) ∧ t.cmp = 0b00#2 ∧ t.zf = false ∧ t.bitf = false ∧
    t.onc = false ∧ exec .zero t = .next t) ∧ encode .zero = 0xC0000000#32 ∧
  (∀ w : Word, (w.extractLsb' 26 6).toNat = 0x30 → w ≠ 0xC0000000#32 → decode w = .error .unusedField)
end

