-- ==== Sys2Proof/Laws/Arith.lean ====
section
/-! SUPPORT. What each modular operation computes: its bound, its value in `ZMod m`, and the exact results of the
power and the inverse. -/

namespace Sys2Proof.Machine

variable {m x y : Nat}

theorem addMod_lt (hm : 0 < m) : addMod m x y < m := Nat.mod_lt _ hm

theorem mulMod_lt (hm : 0 < m) : mulMod m x y < m := Nat.mod_lt _ hm

theorem subMod_lt (hm : 0 < m) : subMod m x y < m := by
  have h := Int.emod_lt_of_pos ((x : Int) - y) (by exact_mod_cast hm : (0 : Int) < m)
  have h' := Int.emod_nonneg ((x : Int) - y) (by omega : (m : Int) ≠ 0)
  unfold subMod
  omega

/-- The integer that `subMod` stores is the residue of the difference. -/
theorem subMod_cast_int (hm : 0 < m) : (subMod m x y : Int) = ((x : Int) - y) % m := by
  unfold subMod
  exact Int.toNat_of_nonneg (Int.emod_nonneg _ (by omega))

@[simp] theorem cast_addMod : ((addMod m x y : Nat) : ZMod m) = (x : ZMod m) + y := by
  simp [addMod]

@[simp] theorem cast_mulMod : ((mulMod m x y : Nat) : ZMod m) = (x : ZMod m) * y := by
  simp [mulMod]

/-- `subMod` is subtraction in `ZMod m`; m is not 0. -/
theorem cast_subMod (hm : 0 < m) : ((subMod m x y : Nat) : ZMod m) = (x : ZMod m) - y := by
  have h : ((subMod m x y : Int) : ZMod m) = (((x : Int) - y : Int) : ZMod m) := by
    rw [subMod_cast_int hm]
    exact (ZMod.intCast_eq_intCast_iff _ _ m).2 (Int.mod_modEq _ _)
  simpa using h

/-- A number below m is determined by its residue class. -/
theorem eq_of_cast_eq (hx : x < m) (hy : y < m) (h : (x : ZMod m) = y) : x = y := by
  have := (ZMod.natCast_eq_natCast_iff' x y m).1 h
  rwa [Nat.mod_eq_of_lt hx, Nat.mod_eq_of_lt hy] at this

theorem cast_eq_zero_iff_of_lt (hx : x < m) : (x : ZMod m) = 0 ↔ x = 0 := by
  rw [ZMod.natCast_eq_zero_iff]
  exact ⟨fun h => Nat.eq_zero_of_dvd_of_lt h hx, fun h => h ▸ dvd_zero m⟩

theorem subMod_eq_zero_iff (hx : x < m) (hy : y < m) : subMod m x y = 0 ↔ x = y := by
  have hm : 0 < m := by omega
  rw [← cast_eq_zero_iff_of_lt (subMod_lt hm), cast_subMod hm, sub_eq_zero]
  exact ⟨eq_of_cast_eq hx hy, fun h => h ▸ rfl⟩

/-- The power by squaring is the power of R64 for every exponent below 2 ^ fuel. -/
theorem expMod_eq (fuel : Nat) : ∀ (x e : Nat), e < 2 ^ fuel → expMod fuel m x e = x ^ e % m := by
  induction fuel with
  | zero =>
    intro x e he
    obtain rfl : e = 0 := by simpa using he
    simp [expMod]
  | succ n ih =>
    intro x e he
    have h2 : e / 2 < 2 ^ n := by omega
    have hsq : expMod n m (x * x % m) (e / 2) = x ^ (2 * (e / 2)) % m := by
      rw [ih _ _ h2, ← Nat.pow_mod, ← pow_two, ← pow_mul]
    simp only [expMod, hsq]
    split
    · rename_i ho
      rw [Nat.mul_mod, Nat.mod_mod, ← Nat.mul_mod, ← pow_succ']
      congr 2
      omega
    · congr 2
      omega

/-- What Euclid's algorithm keeps and reaches: with cofactors `t`, `t'` of `a`, and fuel for the size of `r'`, the
result is the greatest common divisor of `r` and `r'` and a cofactor of it. -/
theorem euclid_spec {a : Nat} (hm : 0 < m) (fuel : Nat) :
    ∀ (r t r' t' : Nat), r' < r → r * r' < 2 ^ fuel →
      ((t * a : Nat) : ZMod m) = r → ((t' * a : Nat) : ZMod m) = r' →
      (euclid m fuel r t r' t').1 = Nat.gcd r r' ∧
        (((euclid m fuel r t r' t').2 * a : Nat) : ZMod m) = (Nat.gcd r r' : Nat) := by
  induction fuel with
  | zero =>
    intro r t r' t' hlt hf ht _
    have h0 : r' = 0 := by
      rcases Nat.eq_zero_or_pos r' with h | h
      · exact h
      · have : 0 < r * r' := Nat.mul_pos (by omega) h
        omega
    subst h0
    simpa [euclid] using ht
  | succ n ih =>
    intro r t r' t' hlt hf ht ht'
    unfold euclid
    split
    · rename_i h0
      subst h0
      simpa using ht
    · rename_i h0
      have hpos : 0 < r' := by omega
      have hmod : r % r' < r' := Nat.mod_lt _ hpos
      have hdm := Nat.div_add_mod r r'
      have hq : 1 ≤ r / r' := (Nat.one_le_div_iff hpos).2 (by omega)
      have hr2 : 2 * (r % r') ≤ r := by
        have : r' ≤ r' * (r / r') := Nat.le_mul_of_pos_right _ (by omega)
        omega
      have hf' : r' * (r % r') < 2 ^ n := by
        have : r' * (2 * (r % r')) ≤ r' * r := Nat.mul_le_mul_left _ hr2
        have h2 : r' * (2 * (r % r')) = 2 * (r' * (r % r')) := by ring
        have h3 : r' * r = r * r' := Nat.mul_comm _ _
        have h4 : 2 ^ (n + 1) = 2 * 2 ^ n := by ring
        omega
      have hc : ((subMod m t (r / r' * t') * a : Nat) : ZMod m) = (r % r' : Nat) := by
        have e1 : (r : ZMod m) = (r' : ZMod m) * (r / r' : Nat) + (r % r' : Nat) := by
          exact_mod_cast congrArg (Nat.cast (R := ZMod m)) hdm.symm
        push_cast at ht ht' ⊢
        rw [cast_subMod hm]
        push_cast
        rw [sub_mul, ht, mul_assoc, ht', e1]
        ring
      have := ih r' t' (r % r') (subMod m t (r / r' * t')) hmod hf' ht' hc
      rwa [Nat.gcd_comm r' (r % r'), ← Nat.gcd_rec, Nat.gcd_comm r' r] at this

set_option exponentiation.threshold 520 in
/-- The inverse of R14 and R63, for moduli of at most 256 bits: it exists exactly when a and m share no factor, and
then it is the one x in [0, m) with `a · x ≡ 1`. -/
theorem invMod_spec (a : Nat) (hm : 1 < m) (hb : m < 2 ^ 256) :
    (Nat.gcd a m = 1 ∧ ∃ x, invMod m a = some x ∧ x < m ∧ (a : ZMod m) * x = 1) ∨
      (Nat.gcd a m ≠ 1 ∧ invMod m a = none) := by
  have hlt : a % m < m := Nat.mod_lt _ (by omega)
  have hf : m * (a % m) < 2 ^ euclidFuel := by
    have h1 : m * (a % m) < 2 ^ 256 * 2 ^ 256 :=
      Nat.mul_lt_mul_of_lt_of_lt hb (lt_trans hlt hb)
    have h2 : (2 : Nat) ^ 256 * 2 ^ 256 ≤ 2 ^ euclidFuel :=
      (pow_add 2 256 256).symm.le.trans (Nat.pow_le_pow_right (by decide) (by decide))
    exact h1.trans_le h2
  have h := euclid_spec (a := a) (m := m) (by omega) euclidFuel m 0 (a % m) 1 hlt hf (by simp) (by simp)
  rw [Nat.gcd_comm m (a % m), ← Nat.gcd_rec, Nat.gcd_comm m a] at h
  unfold invMod
  rcases hE : euclid m euclidFuel m 0 (a % m) 1 with ⟨r, t⟩
  rw [hE] at h
  obtain ⟨h1, h2⟩ := h
  simp only at h1 h2
  by_cases hg : Nat.gcd a m = 1
  · refine Or.inl ⟨hg, t % m, by simp [h1, hg], Nat.mod_lt _ (by omega), ?_⟩
    rw [hg] at h2
    push_cast at h2
    simpa [mul_comm] using h2
  · exact Or.inr ⟨hg, by simp [h1, hg]⟩

/-- Under a prime modulus every residue but 0 has an inverse. -/
theorem invMod_prime {p a : Nat} (hp : p.Prime) (hb : p < 2 ^ 256) (ha : (a : ZMod p) ≠ 0) :
    ∃ x, invMod p a = some x ∧ x < p ∧ (a : ZMod p) * x = 1 := by
  rcases invMod_spec a hp.one_lt hb with ⟨_, h⟩ | ⟨hg, _⟩
  · exact h
  · refine absurd (Nat.Coprime.symm ((Nat.Prime.coprime_iff_not_dvd hp).2 ?_)) hg
    rwa [Ne, ZMod.natCast_eq_zero_iff] at ha

/-- Under a prime modulus the inverse of a residue 0 does not exist. -/
theorem invMod_zero {p a : Nat} (hp : p.Prime) (hb : p < 2 ^ 256) (ha : (a : ZMod p) = 0) :
    invMod p a = none := by
  rcases invMod_spec a hp.one_lt hb with ⟨hg, _⟩ | ⟨_, h⟩
  · rw [ZMod.natCast_eq_zero_iff] at ha
    rw [Nat.gcd_eq_right ha] at hg
    exact absurd hg hp.one_lt.ne'
  · exact h

end Sys2Proof.Machine
end

