-- ==== Sys2Proof/Laws/Encoding.lean ====
section
/-! SUPPORT. The command word and its fields: packing and splitting are inverse, and a mask acts field by field. -/

namespace Sys2Proof

@[simp] theorem splitWord_packFields (x : Fields) : splitWord (packFields x) = x := by
  obtain ⟨op, d, a, b, c, m, i⟩ := x
  simp only [splitWord, packFields, Fields.mk.injEq]
  refine ⟨?_, ?_, ?_, ?_, ?_, ?_, ?_⟩ <;>
    · ext k hk
      simp only [BitVec.getElem_extractLsb', BitVec.getLsbD_append]
      have hk' : k < 8 := by omega
      interval_cases k <;> first | omega | simp [BitVec.getLsbD_eq_getElem, hk]

@[simp] theorem packFields_splitWord (w : Word) : packFields (splitWord w) = w := by
  refine BitVec.eq_of_getLsbD_eq fun k hk => ?_
  simp only [splitWord, packFields, BitVec.getLsbD_append, BitVec.getLsbD_extractLsb']
  interval_cases k <;> rfl

/-- The bitwise AND of two field lists. -/
def Fields.and (x y : Fields) : Fields :=
  ⟨x.op &&& y.op, x.d &&& y.d, x.a &&& y.a, x.b &&& y.b, x.c &&& y.c, x.m &&& y.m, x.i &&& y.i⟩

theorem packFields_and (x y : Fields) : packFields x &&& packFields y = packFields (x.and y) := by
  refine BitVec.eq_of_getLsbD_eq fun k hk => ?_
  simp only [packFields, Fields.and, BitVec.getLsbD_and, BitVec.getLsbD_append]
  interval_cases k <;> rfl

theorem packFields_inj {x y : Fields} : packFields x = packFields y ↔ x = y :=
  ⟨fun h => by simpa using congrArg splitWord h, fun h => h ▸ rfl⟩

/-- A word matches a row of the opcode table exactly when its fields do. -/
theorem matchesWord_iff (r : OpcodeRow) (w : Word) :
    r.matchesWord w = true ↔ (splitWord w).and (splitWord r.mask) = splitWord r.bits := by
  have h : w &&& r.mask = packFields ((splitWord w).and (splitWord r.mask)) := by
    rw [← packFields_and, packFields_splitWord, packFields_splitWord]
  rw [OpcodeRow.matchesWord, beq_iff_eq, h]
  constructor
  · intro e
    simpa using congrArg splitWord e
  · intro e
    rw [e, packFields_splitWord]

theorem decode_packFields (x : Fields) : decode (packFields x) = decodeFields x := by
  simp [decode]

end Sys2Proof
end

