-- ==== Sys2Proof/Laws/Points.lean ====
section
/-! SUPPORT. What each point function answers: on point values that meet R24 it answers a point value that meets R24
(R77), and each register form is stored and read back unchanged. -/

namespace Sys2Proof.Machine

open Sys2Proof

variable {c : Curve} {v w : Point} {r : PointReg} {p : Nat}

/-! Storing and reading back -/

theorem ofNat_toNat_of_lt {x : Nat} (hp : p ≤ 2 ^ 256) (hx : x < p) : (BitVec.ofNat 256 x).toNat = x := by
  rw [BitVec.toNat_ofNat]
  exact Nat.mod_eq_of_lt (by omega)

theorem val_reg (hp : p ≤ 2 ^ 256) (h : v.Ok p) : v.reg.val = v := by
  cases v with
  | inf => rfl
  | aff x y =>
    obtain ⟨hx, hy⟩ := h
    simp only [Point.reg, PointReg.val, ofNat_toNat_of_lt hp hx, ofNat_toNat_of_lt hp hy]
  | jac x y z =>
    obtain ⟨hx, hy, hz, _⟩ := h
    simp only [Point.reg, PointReg.val, ofNat_toNat_of_lt hp hx, ofNat_toNat_of_lt hp hy, ofNat_toNat_of_lt hp hz]

theorem reg_ok (hp : p ≤ 2 ^ 256) (hpos : 0 < p) (h : v.Ok p) : v.reg.Ok p := by
  cases v with
  | inf => simp [Point.reg, PointReg.identity, PointReg.Ok, hpos]
  | aff x y =>
    obtain ⟨hx, hy⟩ := h
    simp [Point.reg, PointReg.Ok, ofNat_toNat_of_lt hp hx, ofNat_toNat_of_lt hp hy, hx, hy, hpos,
      - BitVec.toNat_ofNat]
  | jac x y z =>
    obtain ⟨hx, hy, hz, h0⟩ := h
    have hz' := ofNat_toNat_of_lt hp hz
    refine ⟨?_, ?_, ?_, ?_⟩
    · simpa only [Point.reg, ofNat_toNat_of_lt hp hx]
    · simpa only [Point.reg, ofNat_toNat_of_lt hp hy]
    · simpa only [Point.reg, hz']
    · intro hc
      have hc' : BitVec.ofNat 256 z = 0#256 := hc
      rw [hc'] at hz'
      exact h0 (by simpa using hz'.symm)

theorem val_ok (h : r.Ok p) : r.val.Ok p := by
  obtain ⟨tag, x, y, z⟩ := r
  cases tag with
  | inf => trivial
  | aff => exact ⟨h.1, h.2.1⟩
  | jac =>
    refine ⟨h.1, h.2.1, h.2.2.1, fun h0 => h.2.2.2 ?_⟩
    exact BitVec.eq_of_toNat_eq (by simpa using h0)

theorem reg_val (h : r.Ok p) : r.val.reg = r := by
  obtain ⟨tag, x, y, z⟩ := r
  obtain ⟨_, _, _, h4⟩ := h
  cases tag with
  | inf =>
    obtain ⟨h5, h6, h7⟩ := h4
    simp_all [Point.reg, PointReg.val, PointReg.identity]
  | aff => simp_all [Point.reg, PointReg.val]
  | jac => simp_all [Point.reg, PointReg.val]

theorem identity_ok (hpos : 0 < p) : PointReg.identity.Ok p := by
  simp [PointReg.identity, PointReg.Ok, hpos]

/-- A stored point value meets R24 whatever it is, once its coordinates are below p. -/
theorem reg_ok_of_curve (hc : c.Valid) (h : v.Ok c.p.toNat) : v.reg.Ok c.p.toNat :=
  reg_ok (le_of_lt c.p.isLt) hc.1.pos h

theorem val_reg_of_curve (h : v.Ok c.p.toNat) : v.reg.val = v :=
  val_reg (le_of_lt c.p.isLt) h

/-! The point functions on point values that meet R24 (R77) -/

theorem pointNeg_ok (hc : c.Valid) (h : v.Ok c.p.toNat) : (pointNeg c v).Ok c.p.toNat := by
  have hp := hc.1.pos
  cases v with
  | inf => trivial
  | aff x y => exact ⟨h.1, subMod_lt hp⟩
  | jac x y z => exact ⟨h.1, subMod_lt hp, h.2.2⟩

theorem cast_two_ne_zero (hc : c.Valid) : (2 : ZMod c.p.toNat) ≠ 0 := by
  intro h
  have h' : ((2 : Nat) : ZMod c.p.toNat) = 0 := by exact_mod_cast h
  rw [ZMod.natCast_eq_zero_iff] at h'
  have := Nat.le_of_dvd (by norm_num) h'
  have := hc.2.2.1
  omega

theorem cast_ne_zero {x : Nat} (hx : x < p) (h0 : x ≠ 0) : (x : ZMod p) ≠ 0 := by
  rwa [Ne, cast_eq_zero_iff_of_lt hx]

theorem mulMod_ne_zero {x y : Nat} (hp : p.Prime) (hx : (x : ZMod p) ≠ 0) (hy : (y : ZMod p) ≠ 0) :
    ((mulMod p x y : Nat) : ZMod p) ≠ 0 := by
  have := Fact.mk hp
  simpa using ⟨hx, hy⟩

theorem dblAffine_ok {x y : Nat} (hc : c.Valid) (hy : y < c.p.toNat) (h0 : y ≠ 0) :
    ∃ q, dblAffine c x y = some q ∧ q.Ok c.p.toNat := by
  have hp := hc.1
  have hne : ((mulMod c.p.toNat 2 y : Nat) : ZMod c.p.toNat) ≠ 0 :=
    mulMod_ne_zero hp (by exact_mod_cast cast_two_ne_zero hc) (cast_ne_zero hy h0)
  obtain ⟨i, hi, _⟩ := invMod_prime hp c.p.isLt hne
  simp only [dblAffine, hi]
  exact ⟨_, rfl, subMod_lt hp.pos, subMod_lt hp.pos⟩

theorem dblJacobian_ok {x y z : Nat} (hc : c.Valid) (hy : y < c.p.toNat) (hz : z < c.p.toNat)
    (h0 : y ≠ 0) (h1 : z ≠ 0) : (dblJacobian c x y z).Ok c.p.toNat := by
  have hp := hc.1
  refine ⟨subMod_lt hp.pos, subMod_lt hp.pos, mulMod_lt hp.pos, ?_⟩
  have h := mulMod_ne_zero hp (x := 2) (by exact_mod_cast cast_two_ne_zero hc)
    (mulMod_ne_zero hp (cast_ne_zero hy h0) (cast_ne_zero hz h1))
  intro hz3
  exact h (by rw [hz3]; simp)

theorem pointDbl_ok (hc : c.Valid) (h : v.Ok c.p.toNat) :
    ∃ q, pointDbl c v = some q ∧ q.Ok c.p.toNat := by
  cases v with
  | inf => exact ⟨_, rfl, trivial⟩
  | aff x y =>
    simp only [pointDbl]
    split
    · exact ⟨_, rfl, trivial⟩
    · rename_i h0
      exact dblAffine_ok hc h.2 h0
  | jac x y z =>
    simp only [pointDbl]
    split
    · exact ⟨_, rfl, trivial⟩
    · rename_i h0
      exact ⟨_, rfl, dblJacobian_ok hc h.2.1 h.2.2.1 h0 h.2.2.2⟩

theorem addAffine_ok {x1 y1 x2 y2 : Nat} (hc : c.Valid) (h1 : x1 < c.p.toNat) (h2 : x2 < c.p.toNat)
    (hne : x1 ≠ x2) : ∃ q, addAffine c x1 y1 x2 y2 = some q ∧ q.Ok c.p.toNat := by
  have hp := hc.1
  have hs : ((subMod c.p.toNat x2 x1 : Nat) : ZMod c.p.toNat) ≠ 0 :=
    cast_ne_zero (subMod_lt hp.pos) fun h => hne ((subMod_eq_zero_iff h2 h1).1 h).symm
  obtain ⟨i, hi, _⟩ := invMod_prime hp c.p.isLt hs
  simp only [addAffine, hi]
  exact ⟨_, rfl, subMod_lt hp.pos, subMod_lt hp.pos⟩

theorem addJacobian_ok {x1 y1 z1 x2 y2 z2 : Nat} (hc : c.Valid) (hv : v.Ok c.p.toNat)
    (h1 : (z1 : ZMod c.p.toNat) ≠ 0) (h2 : (z2 : ZMod c.p.toNat) ≠ 0) :
    ∃ q, addJacobian c v x1 y1 z1 x2 y2 z2 = some q ∧ q.Ok c.p.toNat := by
  have hp := hc.1
  unfold addJacobian
  simp only
  split
  · split
    · exact pointDbl_ok hc hv
    · exact ⟨_, rfl, trivial⟩
  · rename_i hh
    refine ⟨_, rfl, subMod_lt hp.pos, subMod_lt hp.pos, mulMod_lt hp.pos, fun h3 => ?_⟩
    exact mulMod_ne_zero hp (cast_ne_zero (subMod_lt hp.pos) hh) (mulMod_ne_zero hp h1 h2) (by rw [h3]; simp)

theorem cast_one_ne_zero (hc : c.Valid) : ((1 : Nat) : ZMod c.p.toNat) ≠ 0 :=
  cast_ne_zero hc.1.one_lt one_ne_zero

theorem pointAdd_ok (hc : c.Valid) (hv : v.Ok c.p.toNat) (hw : w.Ok c.p.toNat) :
    ∃ q, pointAdd c v w = some q ∧ q.Ok c.p.toNat := by
  cases v with
  | inf => cases w <;> exact ⟨_, rfl, hw⟩
  | aff x1 y1 =>
    cases w with
    | inf => exact ⟨_, rfl, hv⟩
    | aff x2 y2 =>
      simp only [pointAdd]
      split
      · split
        · exact pointDbl_ok hc hv
        · exact ⟨_, rfl, trivial⟩
      · rename_i hne
        exact addAffine_ok hc hv.1 hw.1 hne
    | jac x2 y2 z2 => exact addJacobian_ok hc hv (cast_one_ne_zero hc) (cast_ne_zero hw.2.2.1 hw.2.2.2)
  | jac x1 y1 z1 =>
    cases w with
    | inf => exact ⟨_, rfl, hv⟩
    | aff x2 y2 => exact addJacobian_ok hc hv (cast_ne_zero hv.2.2.1 hv.2.2.2) (cast_one_ne_zero hc)
    | jac x2 y2 z2 =>
      exact addJacobian_ok hc hv (cast_ne_zero hv.2.2.1 hv.2.2.2) (cast_ne_zero hw.2.2.1 hw.2.2.2)

theorem pointToAff_ok (hc : c.Valid) (h : v.Ok c.p.toNat) :
    ∃ q, pointToAff c v = some q ∧ q.Ok c.p.toNat := by
  cases v with
  | inf => exact ⟨_, rfl, trivial⟩
  | aff x y => exact ⟨_, rfl, h⟩
  | jac x y z =>
    obtain ⟨i, hi, _⟩ := invMod_prime hc.1 c.p.isLt (cast_ne_zero h.2.2.1 h.2.2.2)
    simp only [pointToAff, hi]
    exact ⟨_, rfl, mulMod_lt hc.1.pos, mulMod_lt hc.1.pos⟩

theorem pointToJac_ok (hc : c.Valid) (h : v.Ok c.p.toNat) : (pointToJac v).Ok c.p.toNat := by
  cases v with
  | inf => trivial
  | aff x y => exact ⟨h.1, h.2, hc.1.one_lt, one_ne_zero⟩
  | jac x y z => exact h

/-! The Jacobian forms stay Jacobian and never need an inverse, on any coordinates (R97, R98) -/

@[simp] theorem pointToJac_isJacobian : (pointToJac v).isJacobian = true := by
  cases v <;> rfl

@[simp] theorem pointNeg_isJacobian : (pointNeg c v).isJacobian = v.isJacobian := by
  cases v <;> rfl

theorem pointDbl_jacobian (h : v.isJacobian = true) : ∃ q, pointDbl c v = some q ∧ q.isJacobian = true := by
  cases v with
  | inf => exact ⟨_, rfl, rfl⟩
  | aff x y => simp [Point.isJacobian] at h
  | jac x y z =>
    simp only [pointDbl]
    split
    · exact ⟨_, rfl, rfl⟩
    · exact ⟨_, rfl, rfl⟩

theorem pointAdd_jacobian (hv : v.isJacobian = true) (hw : w.isJacobian = true) :
    ∃ q, pointAdd c v w = some q ∧ q.isJacobian = true := by
  cases v with
  | aff x y => simp [Point.isJacobian] at hv
  | inf => cases w <;> exact ⟨_, rfl, hw⟩
  | jac x1 y1 z1 =>
    cases w with
    | aff x y => simp [Point.isJacobian] at hw
    | inf => exact ⟨_, rfl, hv⟩
    | jac x2 y2 z2 =>
      simp only [pointAdd, addJacobian]
      split
      · split
        · exact pointDbl_jacobian hv
        · exact ⟨_, rfl, rfl⟩
      · exact ⟨_, rfl, rfl⟩

end Sys2Proof.Machine
end

