-- ==== Sys2Proof/Laws/State.lean ====
section
/-! SUPPORT. What each operation on the state does to each field, one lemma per field per operation. -/

namespace Sys2Proof.Machine

open Sys2Proof

variable (s : State)

/-! writeF -/

@[simp] theorem State.writeF_config (r : RegIdx) (v : Value) : (s.writeF r v).config = s.config := rfl
@[simp] theorem State.writeF_f (r : RegIdx) (v : Value) : (s.writeF r v).f = s.f.set r.toNat v r.isLt := rfl
@[simp] theorem State.writeF_pt (r : RegIdx) (v : Value) : (s.writeF r v).pt = s.pt := rfl
@[simp] theorem State.writeF_cmd (r : RegIdx) (v : Value) : (s.writeF r v).cmd = s.cmd := rfl
@[simp] theorem State.writeF_irqen (r : RegIdx) (v : Value) : (s.writeF r v).irqen = s.irqen := rfl
@[simp] theorem State.writeF_busy (r : RegIdx) (v : Value) : (s.writeF r v).busy = s.busy := rfl
@[simp] theorem State.writeF_done (r : RegIdx) (v : Value) : (s.writeF r v).done = s.done := rfl
@[simp] theorem State.writeF_werr (r : RegIdx) (v : Value) : (s.writeF r v).werr = s.werr := rfl
@[simp] theorem State.writeF_err (r : RegIdx) (v : Value) : (s.writeF r v).err = s.err := rfl
@[simp] theorem State.writeF_cmp (r : RegIdx) (v : Value) : (s.writeF r v).cmp = s.cmp := rfl
@[simp] theorem State.writeF_zf (r : RegIdx) (v : Value) : (s.writeF r v).zf = s.zf := rfl
@[simp] theorem State.writeF_bitf (r : RegIdx) (v : Value) : (s.writeF r v).bitf = s.bitf := rfl
@[simp] theorem State.writeF_onc (r : RegIdx) (v : Value) : (s.writeF r v).onc = s.onc := rfl
@[simp] theorem State.writeF_cl (r : RegIdx) (v : Value) : (s.writeF r v).cl = s.cl := rfl
@[simp] theorem State.writeF_scratch (r : RegIdx) (v : Value) : (s.writeF r v).scratch = s.scratch := rfl
@[simp] theorem State.writeF_events (r : RegIdx) (v : Value) : (s.writeF r v).events = s.events := rfl
@[simp] theorem State.writeF_reply (r : RegIdx) (v : Value) : (s.writeF r v).reply = s.reply := rfl
@[simp] theorem State.writeF_readPt (r : RegIdx) (v : Value) (q : RegIdx) : (s.writeF r v).readPt q = s.readPt q := rfl
@[simp] theorem State.writeF_pointOf (r : RegIdx) (v : Value) (q : RegIdx) : (s.writeF r v).pointOf q = s.pointOf q := rfl
@[simp] theorem State.writeF_prime (r : RegIdx) (v : Value) : (s.writeF r v).prime = s.prime := rfl
@[simp] theorem State.writeF_modulus (r : RegIdx) (v : Value) (m : Modulus) : (s.writeF r v).modulus m = s.modulus m := rfl

/-! writeNatF -/

@[simp] theorem State.writeNatF_config (r : RegIdx) (v : Nat) : (s.writeNatF r v).config = s.config := rfl
@[simp] theorem State.writeNatF_f (r : RegIdx) (v : Nat) : (s.writeNatF r v).f = s.f.set r.toNat (BitVec.ofNat 256 v) r.isLt := rfl
@[simp] theorem State.writeNatF_pt (r : RegIdx) (v : Nat) : (s.writeNatF r v).pt = s.pt := rfl
@[simp] theorem State.writeNatF_cmd (r : RegIdx) (v : Nat) : (s.writeNatF r v).cmd = s.cmd := rfl
@[simp] theorem State.writeNatF_irqen (r : RegIdx) (v : Nat) : (s.writeNatF r v).irqen = s.irqen := rfl
@[simp] theorem State.writeNatF_busy (r : RegIdx) (v : Nat) : (s.writeNatF r v).busy = s.busy := rfl
@[simp] theorem State.writeNatF_done (r : RegIdx) (v : Nat) : (s.writeNatF r v).done = s.done := rfl
@[simp] theorem State.writeNatF_werr (r : RegIdx) (v : Nat) : (s.writeNatF r v).werr = s.werr := rfl
@[simp] theorem State.writeNatF_err (r : RegIdx) (v : Nat) : (s.writeNatF r v).err = s.err := rfl
@[simp] theorem State.writeNatF_cmp (r : RegIdx) (v : Nat) : (s.writeNatF r v).cmp = s.cmp := rfl
@[simp] theorem State.writeNatF_zf (r : RegIdx) (v : Nat) : (s.writeNatF r v).zf = s.zf := rfl
@[simp] theorem State.writeNatF_bitf (r : RegIdx) (v : Nat) : (s.writeNatF r v).bitf = s.bitf := rfl
@[simp] theorem State.writeNatF_onc (r : RegIdx) (v : Nat) : (s.writeNatF r v).onc = s.onc := rfl
@[simp] theorem State.writeNatF_cl (r : RegIdx) (v : Nat) : (s.writeNatF r v).cl = s.cl := rfl
@[simp] theorem State.writeNatF_scratch (r : RegIdx) (v : Nat) : (s.writeNatF r v).scratch = s.scratch := rfl
@[simp] theorem State.writeNatF_events (r : RegIdx) (v : Nat) : (s.writeNatF r v).events = s.events := rfl
@[simp] theorem State.writeNatF_reply (r : RegIdx) (v : Nat) : (s.writeNatF r v).reply = s.reply := rfl
@[simp] theorem State.writeNatF_readPt (r : RegIdx) (v : Nat) (q : RegIdx) : (s.writeNatF r v).readPt q = s.readPt q := rfl
@[simp] theorem State.writeNatF_pointOf (r : RegIdx) (v : Nat) (q : RegIdx) : (s.writeNatF r v).pointOf q = s.pointOf q := rfl
@[simp] theorem State.writeNatF_prime (r : RegIdx) (v : Nat) : (s.writeNatF r v).prime = s.prime := rfl
@[simp] theorem State.writeNatF_modulus (r : RegIdx) (v : Nat) (m : Modulus) : (s.writeNatF r v).modulus m = s.modulus m := rfl

/-! writePt -/

@[simp] theorem State.writePt_config (r : RegIdx) (v : PointReg) : (s.writePt r v).config = s.config := rfl
@[simp] theorem State.writePt_f (r : RegIdx) (v : PointReg) : (s.writePt r v).f = s.f := rfl
@[simp] theorem State.writePt_pt (r : RegIdx) (v : PointReg) : (s.writePt r v).pt = s.pt.set r.toNat v r.isLt := rfl
@[simp] theorem State.writePt_cmd (r : RegIdx) (v : PointReg) : (s.writePt r v).cmd = s.cmd := rfl
@[simp] theorem State.writePt_irqen (r : RegIdx) (v : PointReg) : (s.writePt r v).irqen = s.irqen := rfl
@[simp] theorem State.writePt_busy (r : RegIdx) (v : PointReg) : (s.writePt r v).busy = s.busy := rfl
@[simp] theorem State.writePt_done (r : RegIdx) (v : PointReg) : (s.writePt r v).done = s.done := rfl
@[simp] theorem State.writePt_werr (r : RegIdx) (v : PointReg) : (s.writePt r v).werr = s.werr := rfl
@[simp] theorem State.writePt_err (r : RegIdx) (v : PointReg) : (s.writePt r v).err = s.err := rfl
@[simp] theorem State.writePt_cmp (r : RegIdx) (v : PointReg) : (s.writePt r v).cmp = s.cmp := rfl
@[simp] theorem State.writePt_zf (r : RegIdx) (v : PointReg) : (s.writePt r v).zf = s.zf := rfl
@[simp] theorem State.writePt_bitf (r : RegIdx) (v : PointReg) : (s.writePt r v).bitf = s.bitf := rfl
@[simp] theorem State.writePt_onc (r : RegIdx) (v : PointReg) : (s.writePt r v).onc = s.onc := rfl
@[simp] theorem State.writePt_cl (r : RegIdx) (v : PointReg) : (s.writePt r v).cl = s.cl := rfl
@[simp] theorem State.writePt_scratch (r : RegIdx) (v : PointReg) : (s.writePt r v).scratch = s.scratch := rfl
@[simp] theorem State.writePt_events (r : RegIdx) (v : PointReg) : (s.writePt r v).events = s.events := rfl
@[simp] theorem State.writePt_reply (r : RegIdx) (v : PointReg) : (s.writePt r v).reply = s.reply := rfl
@[simp] theorem State.writePt_readF (r : RegIdx) (v : PointReg) (q : RegIdx) : (s.writePt r v).readF q = s.readF q := rfl
@[simp] theorem State.writePt_natF (r : RegIdx) (v : PointReg) (q : RegIdx) : (s.writePt r v).natF q = s.natF q := rfl
@[simp] theorem State.writePt_prime (r : RegIdx) (v : PointReg) : (s.writePt r v).prime = s.prime := rfl
@[simp] theorem State.writePt_modulus (r : RegIdx) (v : PointReg) (m : Modulus) : (s.writePt r v).modulus m = s.modulus m := rfl

/-! writePoint -/

@[simp] theorem State.writePoint_config (r : RegIdx) (v : Point) : (s.writePoint r v).config = s.config := rfl
@[simp] theorem State.writePoint_f (r : RegIdx) (v : Point) : (s.writePoint r v).f = s.f := rfl
@[simp] theorem State.writePoint_pt (r : RegIdx) (v : Point) : (s.writePoint r v).pt = s.pt.set r.toNat v.reg r.isLt := rfl
@[simp] theorem State.writePoint_cmd (r : RegIdx) (v : Point) : (s.writePoint r v).cmd = s.cmd := rfl
@[simp] theorem State.writePoint_irqen (r : RegIdx) (v : Point) : (s.writePoint r v).irqen = s.irqen := rfl
@[simp] theorem State.writePoint_busy (r : RegIdx) (v : Point) : (s.writePoint r v).busy = s.busy := rfl
@[simp] theorem State.writePoint_done (r : RegIdx) (v : Point) : (s.writePoint r v).done = s.done := rfl
@[simp] theorem State.writePoint_werr (r : RegIdx) (v : Point) : (s.writePoint r v).werr = s.werr := rfl
@[simp] theorem State.writePoint_err (r : RegIdx) (v : Point) : (s.writePoint r v).err = s.err := rfl
@[simp] theorem State.writePoint_cmp (r : RegIdx) (v : Point) : (s.writePoint r v).cmp = s.cmp := rfl
@[simp] theorem State.writePoint_zf (r : RegIdx) (v : Point) : (s.writePoint r v).zf = s.zf := rfl
@[simp] theorem State.writePoint_bitf (r : RegIdx) (v : Point) : (s.writePoint r v).bitf = s.bitf := rfl
@[simp] theorem State.writePoint_onc (r : RegIdx) (v : Point) : (s.writePoint r v).onc = s.onc := rfl
@[simp] theorem State.writePoint_cl (r : RegIdx) (v : Point) : (s.writePoint r v).cl = s.cl := rfl
@[simp] theorem State.writePoint_scratch (r : RegIdx) (v : Point) : (s.writePoint r v).scratch = s.scratch := rfl
@[simp] theorem State.writePoint_events (r : RegIdx) (v : Point) : (s.writePoint r v).events = s.events := rfl
@[simp] theorem State.writePoint_reply (r : RegIdx) (v : Point) : (s.writePoint r v).reply = s.reply := rfl
@[simp] theorem State.writePoint_readF (r : RegIdx) (v : Point) (q : RegIdx) : (s.writePoint r v).readF q = s.readF q := rfl
@[simp] theorem State.writePoint_natF (r : RegIdx) (v : Point) (q : RegIdx) : (s.writePoint r v).natF q = s.natF q := rfl
@[simp] theorem State.writePoint_prime (r : RegIdx) (v : Point) : (s.writePoint r v).prime = s.prime := rfl
@[simp] theorem State.writePoint_modulus (r : RegIdx) (v : Point) (m : Modulus) : (s.writePoint r v).modulus m = s.modulus m := rfl

/-! setCmp -/

@[simp] theorem State.setCmp_config (v : BitVec 2) : (s.setCmp v).config = s.config := rfl
@[simp] theorem State.setCmp_f (v : BitVec 2) : (s.setCmp v).f = s.f := rfl
@[simp] theorem State.setCmp_pt (v : BitVec 2) : (s.setCmp v).pt = s.pt := rfl
@[simp] theorem State.setCmp_cmd (v : BitVec 2) : (s.setCmp v).cmd = s.cmd := rfl
@[simp] theorem State.setCmp_irqen (v : BitVec 2) : (s.setCmp v).irqen = s.irqen := rfl
@[simp] theorem State.setCmp_busy (v : BitVec 2) : (s.setCmp v).busy = s.busy := rfl
@[simp] theorem State.setCmp_done (v : BitVec 2) : (s.setCmp v).done = s.done := rfl
@[simp] theorem State.setCmp_werr (v : BitVec 2) : (s.setCmp v).werr = s.werr := rfl
@[simp] theorem State.setCmp_err (v : BitVec 2) : (s.setCmp v).err = s.err := rfl
@[simp] theorem State.setCmp_cmp (v : BitVec 2) : (s.setCmp v).cmp = v := rfl
@[simp] theorem State.setCmp_zf (v : BitVec 2) : (s.setCmp v).zf = s.zf := rfl
@[simp] theorem State.setCmp_bitf (v : BitVec 2) : (s.setCmp v).bitf = s.bitf := rfl
@[simp] theorem State.setCmp_onc (v : BitVec 2) : (s.setCmp v).onc = s.onc := rfl
@[simp] theorem State.setCmp_cl (v : BitVec 2) : (s.setCmp v).cl = s.cl := rfl
@[simp] theorem State.setCmp_scratch (v : BitVec 2) : (s.setCmp v).scratch = s.scratch := rfl
@[simp] theorem State.setCmp_events (v : BitVec 2) : (s.setCmp v).events = s.events := rfl
@[simp] theorem State.setCmp_reply (v : BitVec 2) : (s.setCmp v).reply = s.reply := rfl
@[simp] theorem State.setCmp_readF (v : BitVec 2) (q : RegIdx) : (s.setCmp v).readF q = s.readF q := rfl
@[simp] theorem State.setCmp_natF (v : BitVec 2) (q : RegIdx) : (s.setCmp v).natF q = s.natF q := rfl
@[simp] theorem State.setCmp_readPt (v : BitVec 2) (q : RegIdx) : (s.setCmp v).readPt q = s.readPt q := rfl
@[simp] theorem State.setCmp_pointOf (v : BitVec 2) (q : RegIdx) : (s.setCmp v).pointOf q = s.pointOf q := rfl
@[simp] theorem State.setCmp_prime (v : BitVec 2) : (s.setCmp v).prime = s.prime := rfl
@[simp] theorem State.setCmp_modulus (v : BitVec 2) (m : Modulus) : (s.setCmp v).modulus m = s.modulus m := rfl

/-! setZf -/

@[simp] theorem State.setZf_config (v : Bool) : (s.setZf v).config = s.config := rfl
@[simp] theorem State.setZf_f (v : Bool) : (s.setZf v).f = s.f := rfl
@[simp] theorem State.setZf_pt (v : Bool) : (s.setZf v).pt = s.pt := rfl
@[simp] theorem State.setZf_cmd (v : Bool) : (s.setZf v).cmd = s.cmd := rfl
@[simp] theorem State.setZf_irqen (v : Bool) : (s.setZf v).irqen = s.irqen := rfl
@[simp] theorem State.setZf_busy (v : Bool) : (s.setZf v).busy = s.busy := rfl
@[simp] theorem State.setZf_done (v : Bool) : (s.setZf v).done = s.done := rfl
@[simp] theorem State.setZf_werr (v : Bool) : (s.setZf v).werr = s.werr := rfl
@[simp] theorem State.setZf_err (v : Bool) : (s.setZf v).err = s.err := rfl
@[simp] theorem State.setZf_cmp (v : Bool) : (s.setZf v).cmp = s.cmp := rfl
@[simp] theorem State.setZf_zf (v : Bool) : (s.setZf v).zf = v := rfl
@[simp] theorem State.setZf_bitf (v : Bool) : (s.setZf v).bitf = s.bitf := rfl
@[simp] theorem State.setZf_onc (v : Bool) : (s.setZf v).onc = s.onc := rfl
@[simp] theorem State.setZf_cl (v : Bool) : (s.setZf v).cl = s.cl := rfl
@[simp] theorem State.setZf_scratch (v : Bool) : (s.setZf v).scratch = s.scratch := rfl
@[simp] theorem State.setZf_events (v : Bool) : (s.setZf v).events = s.events := rfl
@[simp] theorem State.setZf_reply (v : Bool) : (s.setZf v).reply = s.reply := rfl
@[simp] theorem State.setZf_readF (v : Bool) (q : RegIdx) : (s.setZf v).readF q = s.readF q := rfl
@[simp] theorem State.setZf_natF (v : Bool) (q : RegIdx) : (s.setZf v).natF q = s.natF q := rfl
@[simp] theorem State.setZf_readPt (v : Bool) (q : RegIdx) : (s.setZf v).readPt q = s.readPt q := rfl
@[simp] theorem State.setZf_pointOf (v : Bool) (q : RegIdx) : (s.setZf v).pointOf q = s.pointOf q := rfl
@[simp] theorem State.setZf_prime (v : Bool) : (s.setZf v).prime = s.prime := rfl
@[simp] theorem State.setZf_modulus (v : Bool) (m : Modulus) : (s.setZf v).modulus m = s.modulus m := rfl

/-! setBitf -/

@[simp] theorem State.setBitf_config (v : Bool) : (s.setBitf v).config = s.config := rfl
@[simp] theorem State.setBitf_f (v : Bool) : (s.setBitf v).f = s.f := rfl
@[simp] theorem State.setBitf_pt (v : Bool) : (s.setBitf v).pt = s.pt := rfl
@[simp] theorem State.setBitf_cmd (v : Bool) : (s.setBitf v).cmd = s.cmd := rfl
@[simp] theorem State.setBitf_irqen (v : Bool) : (s.setBitf v).irqen = s.irqen := rfl
@[simp] theorem State.setBitf_busy (v : Bool) : (s.setBitf v).busy = s.busy := rfl
@[simp] theorem State.setBitf_done (v : Bool) : (s.setBitf v).done = s.done := rfl
@[simp] theorem State.setBitf_werr (v : Bool) : (s.setBitf v).werr = s.werr := rfl
@[simp] theorem State.setBitf_err (v : Bool) : (s.setBitf v).err = s.err := rfl
@[simp] theorem State.setBitf_cmp (v : Bool) : (s.setBitf v).cmp = s.cmp := rfl
@[simp] theorem State.setBitf_zf (v : Bool) : (s.setBitf v).zf = s.zf := rfl
@[simp] theorem State.setBitf_bitf (v : Bool) : (s.setBitf v).bitf = v := rfl
@[simp] theorem State.setBitf_onc (v : Bool) : (s.setBitf v).onc = s.onc := rfl
@[simp] theorem State.setBitf_cl (v : Bool) : (s.setBitf v).cl = s.cl := rfl
@[simp] theorem State.setBitf_scratch (v : Bool) : (s.setBitf v).scratch = s.scratch := rfl
@[simp] theorem State.setBitf_events (v : Bool) : (s.setBitf v).events = s.events := rfl
@[simp] theorem State.setBitf_reply (v : Bool) : (s.setBitf v).reply = s.reply := rfl
@[simp] theorem State.setBitf_readF (v : Bool) (q : RegIdx) : (s.setBitf v).readF q = s.readF q := rfl
@[simp] theorem State.setBitf_natF (v : Bool) (q : RegIdx) : (s.setBitf v).natF q = s.natF q := rfl
@[simp] theorem State.setBitf_readPt (v : Bool) (q : RegIdx) : (s.setBitf v).readPt q = s.readPt q := rfl
@[simp] theorem State.setBitf_pointOf (v : Bool) (q : RegIdx) : (s.setBitf v).pointOf q = s.pointOf q := rfl
@[simp] theorem State.setBitf_prime (v : Bool) : (s.setBitf v).prime = s.prime := rfl
@[simp] theorem State.setBitf_modulus (v : Bool) (m : Modulus) : (s.setBitf v).modulus m = s.modulus m := rfl

/-! setOnc -/

@[simp] theorem State.setOnc_config (v : Bool) : (s.setOnc v).config = s.config := rfl
@[simp] theorem State.setOnc_f (v : Bool) : (s.setOnc v).f = s.f := rfl
@[simp] theorem State.setOnc_pt (v : Bool) : (s.setOnc v).pt = s.pt := rfl
@[simp] theorem State.setOnc_cmd (v : Bool) : (s.setOnc v).cmd = s.cmd := rfl
@[simp] theorem State.setOnc_irqen (v : Bool) : (s.setOnc v).irqen = s.irqen := rfl
@[simp] theorem State.setOnc_busy (v : Bool) : (s.setOnc v).busy = s.busy := rfl
@[simp] theorem State.setOnc_done (v : Bool) : (s.setOnc v).done = s.done := rfl
@[simp] theorem State.setOnc_werr (v : Bool) : (s.setOnc v).werr = s.werr := rfl
@[simp] theorem State.setOnc_err (v : Bool) : (s.setOnc v).err = s.err := rfl
@[simp] theorem State.setOnc_cmp (v : Bool) : (s.setOnc v).cmp = s.cmp := rfl
@[simp] theorem State.setOnc_zf (v : Bool) : (s.setOnc v).zf = s.zf := rfl
@[simp] theorem State.setOnc_bitf (v : Bool) : (s.setOnc v).bitf = s.bitf := rfl
@[simp] theorem State.setOnc_onc (v : Bool) : (s.setOnc v).onc = v := rfl
@[simp] theorem State.setOnc_cl (v : Bool) : (s.setOnc v).cl = s.cl := rfl
@[simp] theorem State.setOnc_scratch (v : Bool) : (s.setOnc v).scratch = s.scratch := rfl
@[simp] theorem State.setOnc_events (v : Bool) : (s.setOnc v).events = s.events := rfl
@[simp] theorem State.setOnc_reply (v : Bool) : (s.setOnc v).reply = s.reply := rfl
@[simp] theorem State.setOnc_readF (v : Bool) (q : RegIdx) : (s.setOnc v).readF q = s.readF q := rfl
@[simp] theorem State.setOnc_natF (v : Bool) (q : RegIdx) : (s.setOnc v).natF q = s.natF q := rfl
@[simp] theorem State.setOnc_readPt (v : Bool) (q : RegIdx) : (s.setOnc v).readPt q = s.readPt q := rfl
@[simp] theorem State.setOnc_pointOf (v : Bool) (q : RegIdx) : (s.setOnc v).pointOf q = s.pointOf q := rfl
@[simp] theorem State.setOnc_prime (v : Bool) : (s.setOnc v).prime = s.prime := rfl
@[simp] theorem State.setOnc_modulus (v : Bool) (m : Modulus) : (s.setOnc v).modulus m = s.modulus m := rfl

/-! clearFlags -/

@[simp] theorem State.clearFlags_config : (s.clearFlags).config = s.config := rfl
@[simp] theorem State.clearFlags_f : (s.clearFlags).f = s.f := rfl
@[simp] theorem State.clearFlags_pt : (s.clearFlags).pt = s.pt := rfl
@[simp] theorem State.clearFlags_cmd : (s.clearFlags).cmd = s.cmd := rfl
@[simp] theorem State.clearFlags_irqen : (s.clearFlags).irqen = s.irqen := rfl
@[simp] theorem State.clearFlags_busy : (s.clearFlags).busy = s.busy := rfl
@[simp] theorem State.clearFlags_done : (s.clearFlags).done = s.done := rfl
@[simp] theorem State.clearFlags_werr : (s.clearFlags).werr = s.werr := rfl
@[simp] theorem State.clearFlags_err : (s.clearFlags).err = s.err := rfl
@[simp] theorem State.clearFlags_cmp : (s.clearFlags).cmp = 0#2 := rfl
@[simp] theorem State.clearFlags_zf : (s.clearFlags).zf = false := rfl
@[simp] theorem State.clearFlags_bitf : (s.clearFlags).bitf = false := rfl
@[simp] theorem State.clearFlags_onc : (s.clearFlags).onc = false := rfl
@[simp] theorem State.clearFlags_cl : (s.clearFlags).cl = s.cl := rfl
@[simp] theorem State.clearFlags_scratch : (s.clearFlags).scratch = s.scratch := rfl
@[simp] theorem State.clearFlags_events : (s.clearFlags).events = s.events := rfl
@[simp] theorem State.clearFlags_reply : (s.clearFlags).reply = s.reply := rfl
@[simp] theorem State.clearFlags_readF (q : RegIdx) : (s.clearFlags).readF q = s.readF q := rfl
@[simp] theorem State.clearFlags_natF (q : RegIdx) : (s.clearFlags).natF q = s.natF q := rfl
@[simp] theorem State.clearFlags_readPt (q : RegIdx) : (s.clearFlags).readPt q = s.readPt q := rfl
@[simp] theorem State.clearFlags_pointOf (q : RegIdx) : (s.clearFlags).pointOf q = s.pointOf q := rfl
@[simp] theorem State.clearFlags_prime : (s.clearFlags).prime = s.prime := rfl
@[simp] theorem State.clearFlags_modulus (m : Modulus) : (s.clearFlags).modulus m = s.modulus m := rfl

/-! eraseFiles -/

@[simp] theorem State.eraseFiles_config : (s.eraseFiles).config = s.config := rfl
@[simp] theorem State.eraseFiles_f : (s.eraseFiles).f = Vector.replicate 16 0#256 := rfl
@[simp] theorem State.eraseFiles_pt : (s.eraseFiles).pt = Vector.replicate 16 .identity := rfl
@[simp] theorem State.eraseFiles_cmd : (s.eraseFiles).cmd = s.cmd := rfl
@[simp] theorem State.eraseFiles_irqen : (s.eraseFiles).irqen = s.irqen := rfl
@[simp] theorem State.eraseFiles_busy : (s.eraseFiles).busy = s.busy := rfl
@[simp] theorem State.eraseFiles_done : (s.eraseFiles).done = s.done := rfl
@[simp] theorem State.eraseFiles_werr : (s.eraseFiles).werr = s.werr := rfl
@[simp] theorem State.eraseFiles_err : (s.eraseFiles).err = s.err := rfl
@[simp] theorem State.eraseFiles_cmp : (s.eraseFiles).cmp = s.cmp := rfl
@[simp] theorem State.eraseFiles_zf : (s.eraseFiles).zf = s.zf := rfl
@[simp] theorem State.eraseFiles_bitf : (s.eraseFiles).bitf = s.bitf := rfl
@[simp] theorem State.eraseFiles_onc : (s.eraseFiles).onc = s.onc := rfl
@[simp] theorem State.eraseFiles_cl : (s.eraseFiles).cl = s.cl := rfl
@[simp] theorem State.eraseFiles_scratch : (s.eraseFiles).scratch = s.scratch := rfl
@[simp] theorem State.eraseFiles_events : (s.eraseFiles).events = s.events := rfl
@[simp] theorem State.eraseFiles_reply : (s.eraseFiles).reply = s.reply := rfl
@[simp] theorem State.eraseFiles_prime : (s.eraseFiles).prime = s.prime := rfl
@[simp] theorem State.eraseFiles_modulus (m : Modulus) : (s.eraseFiles).modulus m = s.modulus m := rfl

/-! start -/

@[simp] theorem State.start_config : (s.start).config = s.config := rfl
@[simp] theorem State.start_f : (s.start).f = s.f := rfl
@[simp] theorem State.start_pt : (s.start).pt = s.pt := rfl
@[simp] theorem State.start_cmd : (s.start).cmd = s.cmd := rfl
@[simp] theorem State.start_irqen : (s.start).irqen = s.irqen := rfl
@[simp] theorem State.start_busy : (s.start).busy = true := rfl
@[simp] theorem State.start_done : (s.start).done = false := rfl
@[simp] theorem State.start_werr : (s.start).werr = s.werr := rfl
@[simp] theorem State.start_err : (s.start).err = 0#4 := rfl
@[simp] theorem State.start_cmp : (s.start).cmp = s.cmp := rfl
@[simp] theorem State.start_zf : (s.start).zf = s.zf := rfl
@[simp] theorem State.start_bitf : (s.start).bitf = s.bitf := rfl
@[simp] theorem State.start_onc : (s.start).onc = s.onc := rfl
@[simp] theorem State.start_cl : (s.start).cl = s.cmd := rfl
@[simp] theorem State.start_scratch : (s.start).scratch = s.scratch := rfl
@[simp] theorem State.start_events : (s.start).events = s.events := rfl
@[simp] theorem State.start_reply : (s.start).reply = s.reply := rfl
@[simp] theorem State.start_readF (q : RegIdx) : (s.start).readF q = s.readF q := rfl
@[simp] theorem State.start_natF (q : RegIdx) : (s.start).natF q = s.natF q := rfl
@[simp] theorem State.start_readPt (q : RegIdx) : (s.start).readPt q = s.readPt q := rfl
@[simp] theorem State.start_pointOf (q : RegIdx) : (s.start).pointOf q = s.pointOf q := rfl
@[simp] theorem State.start_prime : (s.start).prime = s.prime := rfl
@[simp] theorem State.start_modulus (m : Modulus) : (s.start).modulus m = s.modulus m := rfl

/-! complete -/

@[simp] theorem State.complete_config (code : Completion) : (s.complete code).config = s.config := rfl
@[simp] theorem State.complete_f (code : Completion) : (s.complete code).f = s.f := rfl
@[simp] theorem State.complete_pt (code : Completion) : (s.complete code).pt = s.pt := rfl
@[simp] theorem State.complete_cmd (code : Completion) : (s.complete code).cmd = s.cmd := rfl
@[simp] theorem State.complete_irqen (code : Completion) : (s.complete code).irqen = s.irqen := rfl
@[simp] theorem State.complete_busy (code : Completion) : (s.complete code).busy = false := rfl
@[simp] theorem State.complete_done (code : Completion) : (s.complete code).done = true := rfl
@[simp] theorem State.complete_werr (code : Completion) : (s.complete code).werr = s.werr := rfl
@[simp] theorem State.complete_err (code : Completion) : (s.complete code).err = code.bits := rfl
@[simp] theorem State.complete_cmp (code : Completion) : (s.complete code).cmp = s.cmp := rfl
@[simp] theorem State.complete_zf (code : Completion) : (s.complete code).zf = s.zf := rfl
@[simp] theorem State.complete_bitf (code : Completion) : (s.complete code).bitf = s.bitf := rfl
@[simp] theorem State.complete_onc (code : Completion) : (s.complete code).onc = s.onc := rfl
@[simp] theorem State.complete_cl (code : Completion) : (s.complete code).cl = s.cl := rfl
@[simp] theorem State.complete_scratch (code : Completion) : (s.complete code).scratch = .cleared s.config := rfl
@[simp] theorem State.complete_events (code : Completion) : (s.complete code).events = s.events := rfl
@[simp] theorem State.complete_reply (code : Completion) : (s.complete code).reply = s.reply := rfl
@[simp] theorem State.complete_readF (code : Completion) (q : RegIdx) : (s.complete code).readF q = s.readF q := rfl
@[simp] theorem State.complete_natF (code : Completion) (q : RegIdx) : (s.complete code).natF q = s.natF q := rfl
@[simp] theorem State.complete_readPt (code : Completion) (q : RegIdx) : (s.complete code).readPt q = s.readPt q := rfl
@[simp] theorem State.complete_pointOf (code : Completion) (q : RegIdx) : (s.complete code).pointOf q = s.pointOf q := rfl
@[simp] theorem State.complete_prime (code : Completion) : (s.complete code).prime = s.prime := rfl
@[simp] theorem State.complete_modulus (code : Completion) (m : Modulus) : (s.complete code).modulus m = s.modulus m := rfl

/-! resetBlock -/

@[simp] theorem State.resetBlock_config : (s.resetBlock).config = s.config := rfl
@[simp] theorem State.resetBlock_f : (s.resetBlock).f = Vector.replicate 16 0#256 := rfl
@[simp] theorem State.resetBlock_pt : (s.resetBlock).pt = Vector.replicate 16 .identity := rfl
@[simp] theorem State.resetBlock_cmd : (s.resetBlock).cmd = 0#32 := rfl
@[simp] theorem State.resetBlock_irqen : (s.resetBlock).irqen = false := rfl
@[simp] theorem State.resetBlock_busy : (s.resetBlock).busy = false := rfl
@[simp] theorem State.resetBlock_done : (s.resetBlock).done = false := rfl
@[simp] theorem State.resetBlock_werr : (s.resetBlock).werr = false := rfl
@[simp] theorem State.resetBlock_err : (s.resetBlock).err = 0#4 := rfl
@[simp] theorem State.resetBlock_cmp : (s.resetBlock).cmp = 0#2 := rfl
@[simp] theorem State.resetBlock_zf : (s.resetBlock).zf = false := rfl
@[simp] theorem State.resetBlock_bitf : (s.resetBlock).bitf = false := rfl
@[simp] theorem State.resetBlock_onc : (s.resetBlock).onc = false := rfl
@[simp] theorem State.resetBlock_cl : (s.resetBlock).cl = 0#32 := rfl
@[simp] theorem State.resetBlock_scratch : (s.resetBlock).scratch = .cleared s.config := rfl
@[simp] theorem State.resetBlock_events : (s.resetBlock).events = s.events := rfl
@[simp] theorem State.resetBlock_reply : (s.resetBlock).reply = s.reply := rfl
@[simp] theorem State.resetBlock_prime : (s.resetBlock).prime = s.prime := rfl
@[simp] theorem State.resetBlock_modulus (m : Modulus) : (s.resetBlock).modulus m = s.modulus m := rfl

/-! launch -/

@[simp] theorem State.launch_config (w : Word) : (s.launch w).config = s.config := rfl
@[simp] theorem State.launch_f (w : Word) : (s.launch w).f = s.f := rfl
@[simp] theorem State.launch_pt (w : Word) : (s.launch w).pt = s.pt := rfl
@[simp] theorem State.launch_cmd (w : Word) : (s.launch w).cmd = w := rfl
@[simp] theorem State.launch_irqen (w : Word) : (s.launch w).irqen = s.irqen := rfl
@[simp] theorem State.launch_busy (w : Word) : (s.launch w).busy = true := rfl
@[simp] theorem State.launch_done (w : Word) : (s.launch w).done = false := rfl
@[simp] theorem State.launch_werr (w : Word) : (s.launch w).werr = s.werr := rfl
@[simp] theorem State.launch_err (w : Word) : (s.launch w).err = 0#4 := rfl
@[simp] theorem State.launch_cmp (w : Word) : (s.launch w).cmp = s.cmp := rfl
@[simp] theorem State.launch_zf (w : Word) : (s.launch w).zf = s.zf := rfl
@[simp] theorem State.launch_bitf (w : Word) : (s.launch w).bitf = s.bitf := rfl
@[simp] theorem State.launch_onc (w : Word) : (s.launch w).onc = s.onc := rfl
@[simp] theorem State.launch_cl (w : Word) : (s.launch w).cl = w := rfl
@[simp] theorem State.launch_scratch (w : Word) : (s.launch w).scratch = s.scratch := rfl
@[simp] theorem State.launch_events (w : Word) : (s.launch w).events = .engine :: s.events := rfl
@[simp] theorem State.launch_reply (w : Word) : (s.launch w).reply = s.reply := rfl
@[simp] theorem State.launch_readF (w : Word) (q : RegIdx) : (s.launch w).readF q = s.readF q := rfl
@[simp] theorem State.launch_natF (w : Word) (q : RegIdx) : (s.launch w).natF q = s.natF q := rfl
@[simp] theorem State.launch_readPt (w : Word) (q : RegIdx) : (s.launch w).readPt q = s.readPt q := rfl
@[simp] theorem State.launch_pointOf (w : Word) (q : RegIdx) : (s.launch w).pointOf q = s.pointOf q := rfl
@[simp] theorem State.launch_prime (w : Word) : (s.launch w).prime = s.prime := rfl
@[simp] theorem State.launch_modulus (w : Word) (m : Modulus) : (s.launch w).modulus m = s.modulus m := rfl

/-! The register files -/

theorem readF_writeF (r q : RegIdx) (v : Value) :
    (s.writeF r v).readF q = if q = r then v else s.readF q := by
  simp only [State.readF, State.writeF, Vector.getElem_set, eq_comm (a := q), BitVec.toNat_eq]

theorem readPt_writePt (r q : RegIdx) (v : PointReg) :
    (s.writePt r v).readPt q = if q = r then v else s.readPt q := by
  simp only [State.readPt, State.writePt, Vector.getElem_set, eq_comm (a := q), BitVec.toNat_eq]

@[simp] theorem readF_writeF_self (r : RegIdx) (v : Value) : (s.writeF r v).readF r = v := by
  simp [readF_writeF]

@[simp] theorem readPt_writePt_self (r : RegIdx) (v : PointReg) : (s.writePt r v).readPt r = v := by
  simp [readPt_writePt]

theorem readF_writeF_ne {r q : RegIdx} (h : q ≠ r) (v : Value) : (s.writeF r v).readF q = s.readF q := by
  simp [readF_writeF, h]

theorem readPt_writePt_ne {r q : RegIdx} (h : q ≠ r) (v : PointReg) :
    (s.writePt r v).readPt q = s.readPt q := by
  simp [readPt_writePt, h]

@[simp] theorem eraseFiles_readF (q : RegIdx) : s.eraseFiles.readF q = 0#256 := by
  simp [State.readF, State.eraseFiles]

@[simp] theorem eraseFiles_readPt (q : RegIdx) : s.eraseFiles.readPt q = .identity := by
  simp [State.readPt, State.eraseFiles]

@[simp] theorem resetOf_readF (c : Config) (q : RegIdx) : (State.resetOf c).readF q = 0#256 := by
  simp [State.readF, State.resetOf]

@[simp] theorem resetOf_readPt (c : Config) (q : RegIdx) : (State.resetOf c).readPt q = .identity := by
  simp [State.readPt, State.resetOf]

end Sys2Proof.Machine
end

