-- ==== Sys2Proof/Laws/Ops.lean ====
section
/-! SUPPORT. What each way of ending a command does: a field result, a point result, an error, and the two moduli's
bounds (R9, R103, R106). -/

namespace Sys2Proof.Machine

open Sys2Proof

variable {s : State} {d : RegIdx}

/-- A completion with nothing written changes ERR, BUSY, DONE and the scratch alone. -/
theorem complete_writesNothing (s : State) (code : Completion) : WritesNothing s (s.complete code) code :=
  ⟨by simp [Completes], fun r => by simp, fun r => by simp, by simp [SameFlags]⟩

/-- A command that ends by writing one field register changes nothing else. -/
theorem writeF_complete (s : State) (d : RegIdx) (v : Value) :
    WritesOnlyF s ((s.writeF d v).complete .ok) d v.toNat :=
  ⟨by simp [Completes], by simp, fun r hr => by simp [readF_writeF_ne _ hr], fun r => by simp, by simp [SameFlags]⟩

/-- The same for an integer result below 2^256. -/
theorem writeNatF_complete (s : State) (d : RegIdx) {v : Nat} (hv : v < 2 ^ 256) :
    WritesOnlyF s ((s.writeNatF d v).complete .ok) d v := by
  have h := writeF_complete s d (BitVec.ofNat 256 v)
  rwa [BitVec.toNat_ofNat, Nat.mod_eq_of_lt hv] at h

/-- A command that ends by writing one point register changes nothing else. -/
theorem writePt_complete (s : State) (d : RegIdx) (v : PointReg) :
    WritesOnlyPt s ((s.writePt d v).complete .ok) d v :=
  ⟨by simp [Completes], by simp, fun r hr => by simp [readPt_writePt_ne _ hr], fun r => by simp, by simp [SameFlags]⟩

/-- A point command whose function answers ends by writing the answer. -/
theorem finishPoint_some (s : State) (d : RegIdx) (q : Point) :
    s.finishPoint d (some q) = (s.writePoint d q).complete .ok := rfl

/-- A point command whose function does not answer completes with NOINV. -/
theorem finishPoint_none (s : State) (d : RegIdx) : s.finishPoint d none = s.complete .noinv := rfl

/-- Both moduli exceed 1 in an accepted configuration (R9). -/
theorem modulus_gt_one (h : s.config.Valid) (m : Modulus) : 1 < s.modulus m := by
  cases m with
  | p => exact h.1.1.one_lt
  | n =>
    have := h.1.2.2.2.1
    simp only [State.modulus]
    omega

theorem modulus_lt (s : State) (m : Modulus) : s.modulus m < 2 ^ 256 := by
  cases m <;> exact BitVec.isLt _

theorem prime_lt (s : State) : s.prime < 2 ^ 256 := BitVec.isLt _

/-- A point register that meets R24 holds a point value of R16. -/
theorem pointOf_ok (h : s.PointsOk) (r : RegIdx) : (s.pointOf r).Ok s.prime := val_ok (h r)

end Sys2Proof.Machine
end

