-- ==== Sys2Proof/Laws/PerInstr.lean ====
section
/-! SUPPORT. The family MatchesTable: the encoder's word for a command matches that command's own row of the opcode
table (spec 30_encoding R53, R54), one lemma per constructor. -/

namespace Sys2Proof.Laws.MatchesTable

open Sys2Proof

/-- The number of a command's row in the opcode table. -/
def rowIndex : Instr → Nat
  | .nop => 0
  | .fadd .. => 1
  | .fsub .. => 2
  | .fmul .. => 3
  | .finv .. => 4
  | .fexp .. => 5
  | .fcmp .. => 6
  | .fisz .. => 7
  | .ftbit .. => 8
  | .fmov .. => 9
  | .fldc .. => 10
  | .pseti .. => 11
  | .pseta .. => 12
  | .psetj .. => 13
  | .psetg .. => 14
  | .pgetx .. => 15
  | .pgety .. => 16
  | .pgetz .. => 17
  | .pmov .. => 18
  | .pneg .. => 19
  | .pdbl .. => 20
  | .padd .. => 21
  | .ponc .. => 22
  | .paff .. => 23
  | .pjac .. => 24
  | .psmul .. => 25
  | .zero => 26

/-- The encoder's word matches the command's row. -/
def Statement (i : Instr) : Prop :=
  ∃ r, opcodeTable[rowIndex i]? = some r ∧ r.matchesWord (encode i) = true

/-- A row matches a packed word when the masked fields are the row's. -/
theorem matches_of_fields {r : OpcodeRow} {x : Fields} (h : x.and (splitWord r.mask) = splitWord r.bits) :
    r.matchesWord (packFields x) = true := by
  rw [matchesWord_iff, splitWord_packFields]
  exact h

variable (d a b c : RegIdx) (m : Modulus) (i : BitVec 8)

theorem mask_modulus : m.bits &&& 2#2 = 0#2 := by cases m <;> rfl

theorem nop : Statement .nop :=
  ⟨_, rfl, matches_of_fields (by simp [encodeFields, Fields.and, splitWord])⟩

theorem fadd : Statement (.fadd d a b m) :=
  ⟨_, rfl, matches_of_fields (by simp [encodeFields, Fields.and, splitWord, mask_modulus])⟩

theorem fsub : Statement (.fsub d a b m) :=
  ⟨_, rfl, matches_of_fields (by simp [encodeFields, Fields.and, splitWord, mask_modulus])⟩

theorem fmul : Statement (.fmul d a b m) :=
  ⟨_, rfl, matches_of_fields (by simp [encodeFields, Fields.and, splitWord, mask_modulus])⟩

theorem finv : Statement (.finv d a m) :=
  ⟨_, rfl, matches_of_fields (by simp [encodeFields, Fields.and, splitWord, mask_modulus])⟩

theorem fexp : Statement (.fexp d a b m) :=
  ⟨_, rfl, matches_of_fields (by simp [encodeFields, Fields.and, splitWord, mask_modulus])⟩

theorem fcmp : Statement (.fcmp a b) :=
  ⟨_, rfl, matches_of_fields (by simp [encodeFields, Fields.and, splitWord])⟩

theorem fisz : Statement (.fisz a) :=
  ⟨_, rfl, matches_of_fields (by simp [encodeFields, Fields.and, splitWord])⟩

theorem ftbit : Statement (.ftbit a i) :=
  ⟨_, rfl, matches_of_fields (by simp [encodeFields, Fields.and, splitWord])⟩

theorem fmov : Statement (.fmov d a) :=
  ⟨_, rfl, matches_of_fields (by simp [encodeFields, Fields.and, splitWord])⟩

theorem fldc : Statement (.fldc d i) :=
  ⟨_, rfl, matches_of_fields (by simp [encodeFields, Fields.and, splitWord])⟩

theorem pseti : Statement (.pseti d) :=
  ⟨_, rfl, matches_of_fields (by simp [encodeFields, Fields.and, splitWord])⟩

theorem pseta : Statement (.pseta d a b) :=
  ⟨_, rfl, matches_of_fields (by simp [encodeFields, Fields.and, splitWord])⟩

theorem psetj : Statement (.psetj d a b c) :=
  ⟨_, rfl, matches_of_fields (by simp [encodeFields, Fields.and, splitWord])⟩

theorem psetg : Statement (.psetg d) :=
  ⟨_, rfl, matches_of_fields (by simp [encodeFields, Fields.and, splitWord])⟩

theorem pgetx : Statement (.pgetx d a) :=
  ⟨_, rfl, matches_of_fields (by simp [encodeFields, Fields.and, splitWord])⟩

theorem pgety : Statement (.pgety d a) :=
  ⟨_, rfl, matches_of_fields (by simp [encodeFields, Fields.and, splitWord])⟩

theorem pgetz : Statement (.pgetz d a) :=
  ⟨_, rfl, matches_of_fields (by simp [encodeFields, Fields.and, splitWord])⟩

theorem pmov : Statement (.pmov d a) :=
  ⟨_, rfl, matches_of_fields (by simp [encodeFields, Fields.and, splitWord])⟩

theorem pneg : Statement (.pneg d a) :=
  ⟨_, rfl, matches_of_fields (by simp [encodeFields, Fields.and, splitWord])⟩

theorem pdbl : Statement (.pdbl d a) :=
  ⟨_, rfl, matches_of_fields (by simp [encodeFields, Fields.and, splitWord])⟩

theorem padd : Statement (.padd d a b) :=
  ⟨_, rfl, matches_of_fields (by simp [encodeFields, Fields.and, splitWord])⟩

theorem ponc : Statement (.ponc a) :=
  ⟨_, rfl, matches_of_fields (by simp [encodeFields, Fields.and, splitWord])⟩

theorem paff : Statement (.paff d a) :=
  ⟨_, rfl, matches_of_fields (by simp [encodeFields, Fields.and, splitWord])⟩

theorem pjac : Statement (.pjac d a) :=
  ⟨_, rfl, matches_of_fields (by simp [encodeFields, Fields.and, splitWord])⟩

theorem psmul : Statement (.psmul d a b) :=
  ⟨_, rfl, matches_of_fields (by simp [encodeFields, Fields.and, splitWord])⟩

theorem zero : Statement .zero :=
  ⟨_, rfl, matches_of_fields (by simp [encodeFields, Fields.and, splitWord])⟩

end Sys2Proof.Laws.MatchesTable
end

