-- ==== Sys2Proof/Laws/Primes.lean ====
section
/-! SUPPORT. The prime p and the order n of secp256r1 are prime, by Pratt certificates, and this hardware's
configuration meets R9 and R11. -/

namespace Sys2Proof.Machine

open Sys2Proof

/-- One node of a Pratt certificate: `g` has order `p − 1` modulo `p`, whose prime factors are `fs`. -/
theorem prime_of_certificate (p g : Nat) (fs : List Nat) (hb : 1 < p) (hlt : p < 2 ^ 256)
    (hfs : ∀ q ∈ fs, q.Prime) (hprod : fs.prod = p - 1) (h1 : expMod 256 p g (p - 1) = 1)
    (h2 : ∀ q ∈ fs, expMod 256 p g ((p - 1) / q) ≠ 1) : p.Prime := by
  have hcast : ∀ e, e < p → ((g : ZMod p) ^ e = 1 ↔ expMod 256 p g e = 1) := by
    intro e he
    rw [expMod_eq 256 g e (he.trans hlt)]
    have h := ZMod.natCast_eq_natCast_iff' (g ^ e) 1 p
    rw [Nat.mod_eq_of_lt hb] at h
    simpa using h
  refine lucas_primality p (g : ZMod p) ((hcast _ (by omega)).2 h1) fun q hq hd h => ?_
  have hmem : q ∈ fs := by
    rw [← hprod] at hd
    obtain ⟨r, hr, hqr⟩ := (Nat.Prime.prime hq).dvd_prod_iff.1 hd
    rwa [(Nat.prime_dvd_prime_iff_eq hq (hfs r hr)).1 hqr]
  exact h2 q hmem ((hcast _ (by have := Nat.div_le_self (p - 1) q; omega)).1 h)

theorem prime_6700417 : Nat.Prime 6700417 :=
  prime_of_certificate 6700417 5
    [2, 2, 2, 2, 2, 2, 2, 3, 17449] (by norm_num) (by norm_num)
    (by simp only [List.forall_mem_cons, List.not_mem_nil, false_implies, implies_true, and_true]; exact ⟨(by norm_num), (by norm_num), (by norm_num), (by norm_num), (by norm_num), (by norm_num), (by norm_num), (by norm_num), (by norm_num)⟩)
    (by norm_num) (by decide +kernel) (by decide +kernel)

theorem prime_204061199 : Nat.Prime 204061199 :=
  prime_of_certificate 204061199 11
    [2, 11, 23, 107, 3769] (by norm_num) (by norm_num)
    (by simp only [List.forall_mem_cons, List.not_mem_nil, false_implies, implies_true, and_true]; exact ⟨(by norm_num), (by norm_num), (by norm_num), (by norm_num), (by norm_num)⟩)
    (by norm_num) (by decide +kernel) (by decide +kernel)

theorem prime_34282281433 : Nat.Prime 34282281433 :=
  prime_of_certificate 34282281433 17
    [2, 2, 2, 3, 7, 204061199] (by norm_num) (by norm_num)
    (by simp only [List.forall_mem_cons, List.not_mem_nil, false_implies, implies_true, and_true]; exact ⟨(by norm_num), (by norm_num), (by norm_num), (by norm_num), (by norm_num), prime_204061199⟩)
    (by norm_num) (by decide +kernel) (by decide +kernel)

theorem prime_66417393611 : Nat.Prime 66417393611 :=
  prime_of_certificate 66417393611 6
    [2, 5, 53, 173, 197, 3677] (by norm_num) (by norm_num)
    (by simp only [List.forall_mem_cons, List.not_mem_nil, false_implies, implies_true, and_true]; exact ⟨(by norm_num), (by norm_num), (by norm_num), (by norm_num), (by norm_num), (by norm_num)⟩)
    (by norm_num) (by decide +kernel) (by decide +kernel)

theorem prime_11290956913871 : Nat.Prime 11290956913871 :=
  prime_of_certificate 11290956913871 13
    [2, 5, 17, 66417393611] (by norm_num) (by norm_num)
    (by simp only [List.forall_mem_cons, List.not_mem_nil, false_implies, implies_true, and_true]; exact ⟨(by norm_num), (by norm_num), (by norm_num), prime_66417393611⟩)
    (by norm_num) (by decide +kernel) (by decide +kernel)

theorem prime_46076956964474543 : Nat.Prime 46076956964474543 :=
  prime_of_certificate 46076956964474543 5
    [2, 23, 18169, 78283, 704251] (by norm_num) (by norm_num)
    (by simp only [List.forall_mem_cons, List.not_mem_nil, false_implies, implies_true, and_true]; exact ⟨(by norm_num), (by norm_num), (by norm_num), (by norm_num), (by norm_num)⟩)
    (by norm_num) (by decide +kernel) (by decide +kernel)

theorem prime_774023187263532362759620327192479577272145303 : Nat.Prime 774023187263532362759620327192479577272145303 :=
  prime_of_certificate 774023187263532362759620327192479577272145303 3
    [2, 3, 3, 2411, 34282281433, 11290956913871, 46076956964474543] (by norm_num) (by norm_num)
    (by simp only [List.forall_mem_cons, List.not_mem_nil, false_implies, implies_true, and_true]; exact ⟨(by norm_num), (by norm_num), (by norm_num), (by norm_num), prime_34282281433, prime_11290956913871, prime_46076956964474543⟩)
    (by norm_num) (by decide +kernel) (by decide +kernel)

theorem prime_835945042244614951780389953367877943453916927241 : Nat.Prime 835945042244614951780389953367877943453916927241 :=
  prime_of_certificate 835945042244614951780389953367877943453916927241 11
    [2, 2, 2, 3, 3, 3, 5, 774023187263532362759620327192479577272145303] (by norm_num) (by norm_num)
    (by simp only [List.forall_mem_cons, List.not_mem_nil, false_implies, implies_true, and_true]; exact ⟨(by norm_num), (by norm_num), (by norm_num), (by norm_num), (by norm_num), (by norm_num), (by norm_num), prime_774023187263532362759620327192479577272145303⟩)
    (by norm_num) (by decide +kernel) (by decide +kernel)

theorem prime_p256 : Nat.Prime 115792089210356248762697446949407573530086143415290314195533631308867097853951 :=
  prime_of_certificate 115792089210356248762697446949407573530086143415290314195533631308867097853951 6
    [2, 3, 5, 5, 17, 257, 641, 1531, 65537, 490463, 6700417, 835945042244614951780389953367877943453916927241] (by norm_num) (by norm_num)
    (by simp only [List.forall_mem_cons, List.not_mem_nil, false_implies, implies_true, and_true]; exact ⟨(by norm_num), (by norm_num), (by norm_num), (by norm_num), (by norm_num), (by norm_num), (by norm_num), (by norm_num), (by norm_num), (by norm_num), prime_6700417, prime_835945042244614951780389953367877943453916927241⟩)
    (by norm_num) (by decide +kernel) (by decide +kernel)

theorem prime_9350987 : Nat.Prime 9350987 :=
  prime_of_certificate 9350987 2
    [2, 17, 229, 1201] (by norm_num) (by norm_num)
    (by simp only [List.forall_mem_cons, List.not_mem_nil, false_implies, implies_true, and_true]; exact ⟨(by norm_num), (by norm_num), (by norm_num), (by norm_num)⟩)
    (by norm_num) (by decide +kernel) (by decide +kernel)

theorem prime_187019741 : Nat.Prime 187019741 :=
  prime_of_certificate 187019741 2
    [2, 2, 5, 9350987] (by norm_num) (by norm_num)
    (by simp only [List.forall_mem_cons, List.not_mem_nil, false_implies, implies_true, and_true]; exact ⟨(by norm_num), (by norm_num), (by norm_num), prime_9350987⟩)
    (by norm_num) (by decide +kernel) (by decide +kernel)

theorem prime_311245691 : Nat.Prime 311245691 :=
  prime_of_certificate 311245691 2
    [2, 5, 7, 17, 29, 29, 311] (by norm_num) (by norm_num)
    (by simp only [List.forall_mem_cons, List.not_mem_nil, false_implies, implies_true, and_true]; exact ⟨(by norm_num), (by norm_num), (by norm_num), (by norm_num), (by norm_num), (by norm_num), (by norm_num)⟩)
    (by norm_num) (by decide +kernel) (by decide +kernel)

theorem prime_622491383 : Nat.Prime 622491383 :=
  prime_of_certificate 622491383 5
    [2, 311245691] (by norm_num) (by norm_num)
    (by simp only [List.forall_mem_cons, List.not_mem_nil, false_implies, implies_true, and_true]; exact ⟨(by norm_num), prime_311245691⟩)
    (by norm_num) (by decide +kernel) (by decide +kernel)

theorem prime_3969899 : Nat.Prime 3969899 :=
  prime_of_certificate 3969899 2
    [2, 19, 104471] (by norm_num) (by norm_num)
    (by simp only [List.forall_mem_cons, List.not_mem_nil, false_implies, implies_true, and_true]; exact ⟨(by norm_num), (by norm_num), (by norm_num)⟩)
    (by norm_num) (by decide +kernel) (by decide +kernel)

theorem prime_1002328039319 : Nat.Prime 1002328039319 :=
  prime_of_certificate 1002328039319 19
    [2, 126241, 3969899] (by norm_num) (by norm_num)
    (by simp only [List.forall_mem_cons, List.not_mem_nil, false_implies, implies_true, and_true]; exact ⟨(by norm_num), (by norm_num), prime_3969899⟩)
    (by norm_num) (by decide +kernel) (by decide +kernel)

theorem prime_191039911 : Nat.Prime 191039911 :=
  prime_of_certificate 191039911 3
    [2, 3, 5, 41, 155317] (by norm_num) (by norm_num)
    (by simp only [List.forall_mem_cons, List.not_mem_nil, false_implies, implies_true, and_true]; exact ⟨(by norm_num), (by norm_num), (by norm_num), (by norm_num), (by norm_num)⟩)
    (by norm_num) (by decide +kernel) (by decide +kernel)

theorem prime_208150935158385979 : Nat.Prime 208150935158385979 :=
  prime_of_certificate 208150935158385979 2
    [2, 3, 11, 43, 127, 3023, 191039911] (by norm_num) (by norm_num)
    (by simp only [List.forall_mem_cons, List.not_mem_nil, false_implies, implies_true, and_true]; exact ⟨(by norm_num), (by norm_num), (by norm_num), (by norm_num), (by norm_num), (by norm_num), prime_191039911⟩)
    (by norm_num) (by decide +kernel) (by decide +kernel)

theorem prime_2624747550333869278416773953 : Nat.Prime 2624747550333869278416773953 :=
  prime_of_certificate 2624747550333869278416773953 7
    [2, 2, 2, 2, 2, 2, 3, 3, 1297, 16879, 208150935158385979] (by norm_num) (by norm_num)
    (by simp only [List.forall_mem_cons, List.not_mem_nil, false_implies, implies_true, and_true]; exact ⟨(by norm_num), (by norm_num), (by norm_num), (by norm_num), (by norm_num), (by norm_num), (by norm_num), (by norm_num), (by norm_num), (by norm_num), prime_208150935158385979⟩)
    (by norm_num) (by decide +kernel) (by decide +kernel)

theorem prime_n256 : Nat.Prime 115792089210356248762697446949407573529996955224135760342422259061068512044369 :=
  prime_of_certificate 115792089210356248762697446949407573529996955224135760342422259061068512044369 7
    [2, 2, 2, 2, 3, 71, 131, 373, 3407, 17449, 38189, 187019741, 622491383, 1002328039319, 2624747550333869278416773953] (by norm_num) (by norm_num)
    (by simp only [List.forall_mem_cons, List.not_mem_nil, false_implies, implies_true, and_true]; exact ⟨(by norm_num), (by norm_num), (by norm_num), (by norm_num), (by norm_num), (by norm_num), (by norm_num), (by norm_num), (by norm_num), (by norm_num), (by norm_num), prime_187019741, prime_622491383, prime_1002328039319, prime_2624747550333869278416773953⟩)
    (by norm_num) (by decide +kernel) (by decide +kernel)

theorem secp256r1_valid : secp256r1.Valid := by
  refine ⟨?_, by decide, by decide, by decide, by decide, by decide, by decide, by decide⟩
  exact prime_p256

/-- This hardware's configuration is accepted (R9, R11). -/
theorem hardware_valid : Config.hardware.Valid := ⟨secp256r1_valid, by decide, by decide⟩

/-- The order n of secp256r1 is prime, so FINV modulo n fails on the multiples of n alone (R63). -/
theorem secp256r1_order_prime : Nat.Prime secp256r1.n.toNat := prime_n256

end Sys2Proof.Machine
end

