-- ==== Sys2Proof/Laws/Runs.lean ====
section
/-! SUPPORT. What a step can do in a run of R129: an admitted access while busy, the completion step, and the end of a
run. -/

namespace Sys2Proof.Machine

open Sys2Proof

variable {stop : State → Prop} {s t u : State}

/-- A run ends where it should. -/
theorem runUntil_stop (h : RunUntil stop s t) : stop t := by
  induction h with
  | ended h => exact h
  | more _ _ _ _ ih => exact ih

/-- A run from a state that stops has no step. -/
theorem runUntil_of_stop (hs : stop s) (h : RunUntil stop s t) : t = s := by
  cases h with
  | ended _ => rfl
  | more hn _ _ _ => exact absurd hs hn

/-- A run has one end state. -/
theorem runUntil_unique (h : RunUntil stop s t) (h' : RunUntil stop s u) : u = t := by
  induction h with
  | ended hs => exact runUntil_of_stop hs h'
  | more hn _ hstep _ ih =>
    cases h' with
    | ended hs => exact absurd hs hn
    | more _ _ hstep' h' =>
      rw [hstep] at hstep'
      cases hstep'
      exact ih h'

/-- While a command runs, a host write changes IRQEN, WERR and DONE alone (R42). -/
theorem writeLoc_busy (hb : s.busy = true) (l : Loc) (v : Word) :
    ∃ q w d, s.writeLoc l v = { s with irqen := q, werr := w, done := d } := by
  cases l with
  | ctrl =>
    by_cases h0 : v.getLsbD 0 = true
    · exact ⟨v.getLsbD 1, true, s.done, by simp [State.writeLoc, State.writeCtrl, h0, hb]⟩
    · exact ⟨v.getLsbD 1, s.werr, s.done, by simp only [State.writeLoc, State.writeCtrl, if_neg h0]⟩
  | status => exact ⟨s.irqen, _, _, rfl⟩
  | cmd => exact ⟨s.irqen, true, s.done, by simp [State.writeLoc, State.writeCmd, hb]⟩
  | fWord i j => exact ⟨s.irqen, true, s.done, by simp [State.writeLoc, State.writeFWord, hb]⟩
  | _ => exact ⟨s.irqen, s.werr, s.done, rfl⟩

/-- A host write takes no event off the sequence. -/
@[simp] theorem writeLoc_events (s : State) (l : Loc) (v : Word) : (s.writeLoc l v).events = s.events := by
  cases l <;>
    simp only [State.writeLoc, State.writeCtrl, State.writeCmd, State.writeFWord, State.writeStatus, State.start] <;>
    (repeat' split) <;> rfl

/-- While a command runs, an admitted access changes IRQEN, WERR, DONE and the host's side alone (R42, R44). -/
theorem deliver_access_busy {e : Event} (hb : s.busy = true) (he : e.ordinary = true) (hne : e ≠ .engine) :
    ∃ q w d r, deliver e s = .next { s with irqen := q, werr := w, done := d, reply := r } := by
  cases e with
  | engine => exact absurd rfl hne
  | reset => simp [Event.ordinary] at he
  | read off size =>
    simp only [Event.ordinary] at he
    exact ⟨s.irqen, s.werr, s.done, some (s.readWindow off), by simp only [deliver, hostRead, he, if_true]⟩
  | write off size v =>
    simp only [Event.ordinary] at he
    obtain ⟨q, w, d, h⟩ := writeLoc_busy hb (locate off) v
    exact ⟨q, w, d, s.reply, by simp only [deliver, hostWrite, he, if_true, State.writeWindow, h]⟩

/-- The completion step always answers, and leaves the engine idle (R103). -/
theorem completeLatched_answers (s : State) :
    ∃ t, completeLatched s = .next t ∧ t.busy = false ∧ t.done = true ∧ t.events = s.events := by
  simp only [completeLatched]
  cases decode s.cl with
  | error e => exact ⟨_, rfl, rfl, rfl, rfl⟩
  | ok i =>
    cases i <;>
      simp only [exec, execNop, execFadd, execFsub, execFmul, execFinv, execFexp, execFcmp, execFisz, execFtbit, execFmov,
        execFldc, execPseti, execPseta, execPsetj, execPsetg, execPgetx, execPgety, execPgetz, execPmov, execPneg,
        execPdbl, execPadd, execPonc, execPaff, execPjac, execPsmul, execZero, State.finishPoint] <;>
      (repeat' split) <;> exact ⟨_, rfl, rfl, rfl, rfl⟩

/-- An engine turn or an admitted access always has a step, which takes its own event off the sequence (R46). -/
theorem step_ordinary (h : (nextEvent s).1.ordinary = true) :
    ∃ t, step s = .next t ∧ t.events = (nextEvent s).2 := by
  simp only [step]
  generalize (nextEvent s).1 = e at *
  generalize ht : ({ s with events := (nextEvent s).2 } : State) = t
  have hte : t.events = (nextEvent s).2 := by rw [← ht]
  cases e with
  | engine =>
    simp only [deliver, engineTurn]
    split
    · obtain ⟨u, h1, _, _, h2⟩ := completeLatched_answers t
      exact ⟨u, h1, h2.trans hte⟩
    · exact ⟨t, rfl, hte⟩
  | reset => simp [Event.ordinary] at h
  | read off size =>
    simp only [Event.ordinary] at h
    exact ⟨{ t with reply := some (t.readWindow off) }, by simp only [deliver, hostRead, h, if_true], hte⟩
  | write off size v =>
    simp only [Event.ordinary] at h
    exact ⟨t.writeWindow off v, by simp only [deliver, hostWrite, h, if_true],
      (writeLoc_events t (locate off) v).trans hte⟩

/-- After the completion step the engine is idle. -/
theorem completeLatched_idle (h : completeLatched s = .next t) : t.busy = false := by
  obtain ⟨u, h1, h2, _⟩ := completeLatched_answers s
  rw [h] at h1
  cases h1
  exact h2

/-- While a command runs, the engine's turn is its completion step (R103). -/
theorem step_engine_busy (hb : s.busy = true) (he : (nextEvent s).1 = .engine) :
    step s = completeLatched { s with events := (nextEvent s).2 } := by
  simp only [step, he, deliver, engineTurn]
  exact if_pos hb

/-- A step that is no reset is a step over an ordinary event: what is not admitted has none (R37). -/
theorem ordinary_of_step (h : step s = .next t) (hr : (nextEvent s).1 ≠ .reset) :
    (nextEvent s).1.ordinary = true := by
  simp only [step] at h
  generalize (nextEvent s).1 = e at *
  cases e with
  | engine => rfl
  | reset => exact absurd rfl hr
  | read off size =>
    simp only [deliver, hostRead] at h
    split at h
    · assumption
    · cases h
  | write off size v =>
    simp only [deliver, hostWrite] at h
    split at h
    · assumption
    · cases h

/-- The part of a run from a busy state: the host's accesses change IRQEN, WERR, DONE and the host's side alone, then
the completion step ends it (R42, R103, R129). -/
theorem runUntil_idle_of_busy (h : RunUntil State.Idle s t) (hb : s.busy = true) :
    ∃ q w d r es, completeLatched { s with irqen := q, werr := w, done := d, reply := r, events := es } = .next t := by
  induction h with
  | ended hi => rw [State.Idle, hb] at hi; cases hi
  | @more s u t _ hr hstep hrun ih =>
    by_cases he : (nextEvent s).1 = .engine
    · rw [step_engine_busy hb he] at hstep
      have := runUntil_of_stop (completeLatched_idle hstep) hrun
      exact ⟨s.irqen, s.werr, s.done, s.reply, (nextEvent s).2, by rw [this]; exact hstep⟩
    · obtain ⟨q, w, d, r, h⟩ := deliver_access_busy (s := { s with events := (nextEvent s).2 }) hb
        (ordinary_of_step hstep hr) he
      cases h.symm.trans hstep
      obtain ⟨q', w', d', r', es, h'⟩ := ih hb
      exact ⟨q', w', d', r', es, h'⟩

end Sys2Proof.Machine
end

