-- ==== Sys2Proof/Laws/Window.lean ====
section
/-! SUPPORT. The host window: the words of a 256-bit value read back as written, and what each host write leaves. -/

namespace Sys2Proof.Machine

open Sys2Proof

theorem getLsbD_getWord (v : Value) (j : Fin 8) (k : Nat) :
    (getWord v j).getLsbD k = (decide (k < 32) && v.getLsbD (32 * j.val + k)) := by
  simp [getWord]

theorem getLsbD_mask (k : Nat) : (0xFFFFFFFF#256).getLsbD k = decide (k < 32) := by
  rcases Nat.lt_or_ge k 32 with h | h
  · interval_cases k <;> decide
  · have : (0xFFFFFFFF : Nat).testBit k = false :=
      Nat.testBit_lt_two_pow (lt_of_lt_of_le (by norm_num) (Nat.pow_le_pow_right (by norm_num) h))
    simp [BitVec.getLsbD_ofNat, this, h]

theorem getLsbD_setWord (v : Value) (j : Fin 8) (w : Word) (k : Nat) (hk : k < 256) :
    (setWord v j w).getLsbD k =
      if 32 * j.val ≤ k ∧ k < 32 * j.val + 32 then w.getLsbD (k - 32 * j.val) else v.getLsbD k := by
  have hj := j.isLt
  simp only [setWord, BitVec.getLsbD_or, BitVec.getLsbD_and, BitVec.getLsbD_not, BitVec.getLsbD_shiftLeft,
    BitVec.getLsbD_setWidth, getLsbD_mask, hk, decide_true, Bool.true_and]
  by_cases h1 : k < 32 * j.val
  · have h2 : ¬ 32 * j.val ≤ k := by omega
    simp [h1, h2]
  · by_cases h3 : k < 32 * j.val + 32
    · have h4 : k - 32 * j.val < 32 := by omega
      have h5 : k - 32 * j.val < 256 := by omega
      have h6 : 32 * j.val ≤ k := by omega
      simp [h1, h3, h4, h5, h6]
    · have h4 : ¬ k - 32 * j.val < 32 := by omega
      have h5 : w.getLsbD (k - 32 * j.val) = false := BitVec.getLsbD_of_ge _ _ (by omega)
      simp [h1, h3, h4, h5]

/-- Reading the word that was written gives what was written. -/
@[simp] theorem getWord_setWord_self (v : Value) (j : Fin 8) (w : Word) : getWord (setWord v j w) j = w := by
  have hj := j.isLt
  refine BitVec.eq_of_getLsbD_eq fun k hk => ?_
  rw [getLsbD_getWord, getLsbD_setWord _ _ _ _ (by omega)]
  simp [hk]

/-- Writing one word leaves the other seven. -/
theorem getWord_setWord_ne (v : Value) {i j : Fin 8} (h : i ≠ j) (w : Word) :
    getWord (setWord v j w) i = getWord v i := by
  have hi := i.isLt
  have hne : i.val ≠ j.val := fun e => h (Fin.ext e)
  refine BitVec.eq_of_getLsbD_eq fun k hk => ?_
  rw [getLsbD_getWord, getLsbD_getWord, getLsbD_setWord _ _ _ _ (by omega), if_neg (by omega)]

/-- A 256-bit value is its eight words. -/
theorem value_ext_words {v w : Value} (h : ∀ j, getWord v j = getWord w j) : v = w := by
  refine BitVec.eq_of_getLsbD_eq fun k hk => ?_
  have h1 : (getWord v (Fin.ofNat 8 (k / 32))).getLsbD (k % 32) =
      (getWord w (Fin.ofNat 8 (k / 32))).getLsbD (k % 32) := by rw [h]
  have h2 : k / 32 % 8 = k / 32 := Nat.mod_eq_of_lt (by omega)
  have h3 : 32 * (k / 32) + k % 32 = k := by omega
  rw [getLsbD_getWord, getLsbD_getWord] at h1
  simpa [h2, h3, Nat.mod_lt] using h1

end Sys2Proof.Machine
end

