-- ==== Sys2Proof/Laws/Wnaf.lean ====
section
/-! SUPPORT. What the scalar multiplier's scratch run answers, for every kind of point value that the point functions
keep (R94 to R97). -/

namespace Sys2Proof.Machine

open Sys2Proof

/-- A kind of point value that neg, dbl and add keep, and on which dbl and add always answer. -/
structure Closed (c : Curve) (good : Point → Prop) : Prop where
  inf : good .inf
  neg : ∀ v, good v → good (pointNeg c v)
  dbl : ∀ v, good v → ∃ q, pointDbl c v = some q ∧ good q
  add : ∀ v w, good v → good w → ∃ q, pointAdd c v w = some q ∧ good q

/-- Jacobian forms are such a kind on any curve constants (R97). -/
theorem closed_jacobian (c : Curve) : Closed c (fun v => v.isJacobian = true) :=
  ⟨rfl, fun _ h => by simpa using h, fun _ h => pointDbl_jacobian h, fun _ _ h k => pointAdd_jacobian h k⟩

/-- Point values that meet R24 are such a kind on a curve that meets R9 (R77). -/
theorem closed_ok {c : Curve} (hc : c.Valid) : Closed c (fun v => v.Ok c.p.toNat) :=
  ⟨trivial, fun _ h => pointNeg_ok hc h, fun _ h => pointDbl_ok hc h, fun _ _ h k => pointAdd_ok hc h k⟩

variable {c : Curve} {good : Point → Prop}

theorem tableFrom_closed (h : Closed c good) {d2 : Point} (hd : good d2) (n : Nat) :
    ∀ t, good t → ∃ ts, tableFrom c d2 n t = some ts ∧ ∀ e ∈ ts, good e := by
  induction n with
  | zero =>
    intro t ht
    exact ⟨[t], rfl, by simpa using ht⟩
  | succ n ih =>
    intro t ht
    obtain ⟨t', h1, h2⟩ := h.add t d2 ht hd
    obtain ⟨ts, h3, h4⟩ := ih t' h2
    exact ⟨t :: ts, by simp [tableFrom, h1, h3], by simpa using ⟨ht, h4⟩⟩

theorem selectEntry_closed (h : Closed c good) {ts : List Point} (ht : ∀ e ∈ ts, good e) (d : Int) :
    good (selectEntry c ts d) := by
  have he : good (ts.getD ((d.natAbs - 1) / 2) .inf) := by
    rcases Nat.lt_or_ge ((d.natAbs - 1) / 2) ts.length with hl | hl
    · rw [List.getD_eq_getElem _ _ hl]
      exact ht _ (List.getElem_mem hl)
    · rw [List.getD_eq_default _ _ hl]
      exact h.inf
  unfold selectEntry
  simp only
  split
  · exact h.inf
  · split
    · exact h.neg _ he
    · exact he

theorem multiplyLoop_closed (h : Closed c good) {ts : List Point} (ht : ∀ e ∈ ts, good e) :
    ∀ ds, ∃ q, multiplyLoop c ts ds = some q ∧ good q := by
  intro ds
  induction ds with
  | nil => exact ⟨_, rfl, h.inf⟩
  | cons d ds ih =>
    obtain ⟨acc, h1, h2⟩ := ih
    obtain ⟨acc2, h3, h4⟩ := h.dbl acc h2
    obtain ⟨q, h5, h6⟩ := h.add acc2 _ h4 (selectEntry_closed h ht d)
    exact ⟨q, by simp [multiplyLoop, h1, h3, h5], h6⟩

/-- The table's construction answers with entries of the same kind and leaves the digits. -/
theorem buildTable_closed {cfg : Config} (h : Closed cfg.curve good) (x : Scratch) {v : Point}
    (hv : good (pointToJac v)) :
    ∃ y, x.buildTable cfg v = some y ∧ y.digits = x.digits ∧ ∀ e ∈ y.table, good e := by
  unfold Scratch.buildTable
  simp only
  split
  · obtain ⟨d2, h1, h2⟩ := h.dbl _ hv
    obtain ⟨ts, h3, h4⟩ := tableFrom_closed h h2 (2 ^ (cfg.wnafW - 2) - 1) _ hv
    simp only [h1, h3]
    exact ⟨_, rfl, rfl, h4⟩
  · exact ⟨_, rfl, rfl, by simpa using hv⟩

/-- The whole run answers, with an accumulator of the same kind as the promoted base point. -/
theorem multiply_closed {cfg : Config} (h : Closed cfg.curve good) (x : Scratch) {v : Point}
    (hv : good (pointToJac v)) (k : Nat) : ∃ y, x.multiply cfg v k = some y ∧ good y.acc := by
  obtain ⟨y, h1, _, h2⟩ := buildTable_closed h (x.encode cfg k) hv
  obtain ⟨q, h3, h4⟩ := multiplyLoop_closed h h2 y.digits
  exact ⟨{ y with acc := q, idx := 0 }, by simp only [Scratch.multiply, h1, Scratch.runLoop, h3], h4⟩

end Sys2Proof.Machine
end

