-- ==== Sys2Proof/Tests/Slice0.lean ====
section
/-! SUPPORT. The model's own tests and witnesses. Expected results are the spec's: the encoding examples of R58, the
vectors V1 to V143 of 95_test_vectors.md (named in each docstring) and hand calculation where a docstring cites a rule. -/

namespace Sys2Proof.Tests

set_option Elab.async false

open Sys2Proof Sys2Proof.Machine

/-! ## Small states and what a test looks at -/

/-- Reset, with F[1] and F[2] written. -/
def withOperands (a b : Value) : State := (State.reset.writeF 1 a).writeF 2 b

/-- The same with F[3] written too. -/
def withThird (a b c : Value) : State := (withOperands a b).writeF 3 c

/-- Reset, with PT[0] and PT[1] written. -/
def withPoints (p q : PointReg) : State := (State.reset.writePt 0 p).writePt 1 q

/-- The state after one step that runs the command word `w`; none where the step has no next state. -/
def after (s : State) (w : Nat) : Option State :=
  match step (s.withFetchWord 32 w) with
  | .next t => some t
  | .fault _ => none
  | .refused _ => none

/-- F[3] and ERR after the command. -/
def fieldResult (s : State) (w : Nat) : Option (Value × BitVec 4) := (after s w).map (fun t => (t.readF 3, t.err))

/-- CMP, ZF, BITF, ONC and ERR after the command. -/
def flagResult (s : State) (w : Nat) : Option (BitVec 2 × Bool × Bool × Bool × BitVec 4) :=
  (after s w).map (fun t => (t.cmp, t.zf, t.bitf, t.onc, t.err))

/-- PT[r] and ERR after the command. -/
def pointResult (s : State) (w : Nat) (r : RegIdx) : Option (PointReg × BitVec 4) :=
  (after s w).map (fun t => (t.readPt r, t.err))

def aff (x y : Value) : PointReg := ⟨.aff, x, y, 0#256⟩
def jac (x y z : Value) : PointReg := ⟨.jac, x, y, z⟩

def gxv : Value := 0x6B17D1F2E12C4247F8BCE6E563A440F277037D812DEB33A0F4A13945D898C296#256
def gyv : Value := 0x4FE342E2FE1A7F9B8EE7EB4A7C0F9E162BCE33576B315ECECBB6406837BF51F5#256

/-- The reference points of the vectors (section L2.2). -/
def pG : PointReg := aff gxv gyv
def pGj : PointReg := jac gxv gyv 1#256
def pNegG : PointReg := aff gxv 0xB01CBD1C01E58065711814B583F061E9D431CCA994CEA1313449BF97C840AE0A#256
def p2G : PointReg :=
  aff 0x7CF27B188D034F7E8A52380304B51AC3C08969E277F21B35A60B48FC47669978#256
    0x07775510DB8ED040293D9AC69F7430DBBA7DADE63CE982299E04B79D227873D1#256
def p3G : PointReg :=
  aff 0x5ECBE4D1A6330A44C8F7EF951D4BF165E6C6B721EFADA985FB41661BC6E7FD6C#256
    0x8734640C4998FF7E374B06CE1A64A2ECD82AB036384FB83D9A79B127A27D5032#256
def p2Gj : PointReg :=
  jac 0x9A978F59ACD1B5AD570E7D52DCFCDE43804B42274F61DDCF1E7D848391D6C70F#256
    0x4126885E7F786AF905338238E5346D5FE77FC46388668BD0FD59BE3190D2F5D1#256
    0x9FC685C5FC34FF371DCFD694F81F3C2C579C66AED662BD9D976C80D06F7EA3EA#256
def p3Gj : PointReg :=
  jac 0x0EC88440C8B00A9E572BF1BCEB7D0C5906BD65990A9B7081130BD72E2C136CA0#256
    0x3F43881DCC61766FFE07171330863C080B4422E506909BB9E6642BDCFD959F29#256
    0x22D834AC5CE2E092FBE5330EEFC21FA45F5A1229B48C72AE01CC6821F1C03CF9#256
def pGscaled : PointReg :=
  jac 0xAC5F47CC84B1091EE2F39B958E9103C9DC0DF603B7ACCE83D284E51762630A59#256
    0x7F1A1719F0D3FCDA773F5A53E07CF0B15E719AB9598AF6765DB20341BDFA8FAA#256 2#256

/-! ## Well-formedness -/

/-- R54: selector 7 is ill-formed, selector 6 is not. -/
theorem test_selector_seven_is_ill_formed : (Instr.fldc 0 7).wellFormed = false := by decide
theorem test_selector_six_is_well_formed : (Instr.fldc 15 6).wellFormed = true := by decide

/-! ## Decoding: each word built from its fields OP, D, A, B, C, M, I as R49 and R53 give them -/

theorem test_decode_modular :
    decode (0x01#6 ++ 3#4 ++ 1#4 ++ 2#4 ++ 0#4 ++ 0#2 ++ 0#8) = .ok (.fadd 3 1 2 .p) ∧
    decode (0x02#6 ++ 3#4 ++ 1#4 ++ 2#4 ++ 0#4 ++ 1#2 ++ 0#8) = .ok (.fsub 3 1 2 .n) ∧
    decode (0x03#6 ++ 0#4 ++ 4#4 ++ 5#4 ++ 0#4 ++ 1#2 ++ 0#8) = .ok (.fmul 0 4 5 .n) ∧
    decode (0x04#6 ++ 7#4 ++ 6#4 ++ 0#4 ++ 0#4 ++ 0#2 ++ 0#8) = .ok (.finv 7 6 .p) ∧
    decode (0x05#6 ++ 3#4 ++ 1#4 ++ 2#4 ++ 0#4 ++ 1#2 ++ 0#8) = .ok (.fexp 3 1 2 .n) := by
  decide

theorem test_decode_field :
    decode (0x06#6 ++ 0#4 ++ 1#4 ++ 2#4 ++ 0#4 ++ 0#2 ++ 0#8) = .ok (.fcmp 1 2) ∧
    decode (0x07#6 ++ 0#4 ++ 1#4 ++ 0#4 ++ 0#4 ++ 0#2 ++ 0#8) = .ok (.fisz 1) ∧
    decode (0x08#6 ++ 0#4 ++ 2#4 ++ 0#4 ++ 0#4 ++ 0#2 ++ 255#8) = .ok (.ftbit 2 255) ∧
    decode (0x09#6 ++ 3#4 ++ 1#4 ++ 0#4 ++ 0#4 ++ 0#2 ++ 0#8) = .ok (.fmov 3 1) ∧
    decode (0x0A#6 ++ 9#4 ++ 0#4 ++ 0#4 ++ 0#4 ++ 0#2 ++ 5#8) = .ok (.fldc 9 5) := by
  decide

theorem test_decode_point_moves :
    decode (0x10#6 ++ 15#4 ++ 0#4 ++ 0#4 ++ 0#4 ++ 0#2 ++ 0#8) = .ok (.pseti 15) ∧
    decode (0x11#6 ++ 0#4 ++ 1#4 ++ 2#4 ++ 0#4 ++ 0#2 ++ 0#8) = .ok (.pseta 0 1 2) ∧
    decode (0x12#6 ++ 1#4 ++ 1#4 ++ 2#4 ++ 3#4 ++ 0#2 ++ 0#8) = .ok (.psetj 1 1 2 3) ∧
    decode (0x13#6 ++ 4#4 ++ 0#4 ++ 0#4 ++ 0#4 ++ 0#2 ++ 0#8) = .ok (.psetg 4) ∧
    decode (0x14#6 ++ 3#4 ++ 1#4 ++ 0#4 ++ 0#4 ++ 0#2 ++ 0#8) = .ok (.pgetx 3 1) ∧
    decode (0x15#6 ++ 3#4 ++ 1#4 ++ 0#4 ++ 0#4 ++ 0#2 ++ 0#8) = .ok (.pgety 3 1) ∧
    decode (0x16#6 ++ 3#4 ++ 1#4 ++ 0#4 ++ 0#4 ++ 0#2 ++ 0#8) = .ok (.pgetz 3 1) ∧
    decode (0x17#6 ++ 2#4 ++ 1#4 ++ 0#4 ++ 0#4 ++ 0#2 ++ 0#8) = .ok (.pmov 2 1) := by
  decide

theorem test_decode_point_operations :
    decode (0x18#6 ++ 2#4 ++ 1#4 ++ 0#4 ++ 0#4 ++ 0#2 ++ 0#8) = .ok (.pneg 2 1) ∧
    decode (0x19#6 ++ 2#4 ++ 1#4 ++ 0#4 ++ 0#4 ++ 0#2 ++ 0#8) = .ok (.pdbl 2 1) ∧
    decode (0x1A#6 ++ 2#4 ++ 0#4 ++ 1#4 ++ 0#4 ++ 0#2 ++ 0#8) = .ok (.padd 2 0 1) ∧
    decode (0x1B#6 ++ 0#4 ++ 5#4 ++ 0#4 ++ 0#4 ++ 0#2 ++ 0#8) = .ok (.ponc 5) ∧
    decode (0x1C#6 ++ 2#4 ++ 1#4 ++ 0#4 ++ 0#4 ++ 0#2 ++ 0#8) = .ok (.paff 2 1) ∧
    decode (0x1D#6 ++ 2#4 ++ 1#4 ++ 0#4 ++ 0#4 ++ 0#2 ++ 0#8) = .ok (.pjac 2 1) := by
  decide

theorem test_decode_system_and_multiply :
    decode (0x20#6 ++ 3#4 ++ 0#4 ++ 15#4 ++ 0#4 ++ 0#2 ++ 0#8) = .ok (.psmul 3 0 15) ∧
    decode (0x30#6 ++ 0#4 ++ 0#4 ++ 0#4 ++ 0#4 ++ 0#2 ++ 0#8) = .ok .zero ∧
    decode (0x00#6 ++ 0#4 ++ 0#4 ++ 0#4 ++ 0#4 ++ 0#2 ++ 0#8) = .ok .nop := by
  decide

/-- V121 to V135: the words the vectors call illegal, with the condition of R54 each meets. -/
theorem test_illegal_words :
    decode 0x00000001#32 = .error .unusedField ∧ decode 0x04000200#32 = .error .badModulus ∧
    decode 0x04000300#32 = .error .badModulus ∧ decode 0x04000400#32 = .error .unusedField ∧
    decode 0x04000001#32 = .error .unusedField ∧ decode 0x18000100#32 = .error .unusedField ∧
    decode 0x2C000000#32 = .error .reservedOpcode ∧ decode 0xFC000000#32 = .error .reservedOpcode ∧
    decode 0xFFFFFFFF#32 = .error .reservedOpcode ∧ decode 0x28000007#32 = .error .badSelector ∧
    decode 0x280000FF#32 = .error .badSelector ∧ decode 0x40040000#32 = .error .unusedField ∧
    decode 0xC0000001#32 = .error .unusedField := by
  decide

/-- The encoder and the table-numbered decoder on the word of V101 and on a word the table does not give. -/
theorem test_decode_table_word :
    decodeTableWord 32 0x70840000 = some (.paff 2 1) ∧ decodeTableWord 32 0x2C000000 = none ∧
      encode (.paff 2 1) = 0x70840000#32 := by
  decide

/-! ## The assembler -/

/-- R56: either case, an absent suffix, a comment, a hexadecimal immediate. -/
theorem test_assembler_accepts :
    asmWords "  fadd f3, f1, f2 ; sum" = .ok [0x04C48000#32] ∧ asmWords "FTBIT f1, #0xC0" = .ok [0x200400C0#32] ∧
      asmWords "; only a comment" = .ok [] ∧
      asmWords "FLDC f3, #GY" = .ok [0x28C00004#32] ∧
      asmWords "PSUB pt2, pt0, pt1" = .ok [0x60840000#32, 0x68808000#32] := by
  decide

/-- R56, R57: what the assembler must reject. -/
theorem test_assembler_rejects :
    asmWords "FADD.p f3, f1, pt2" = .error .wrongRegister ∧ asmWords "FCMP.p f1, f2" = .error .badSuffix ∧
      asmWords "FTBIT f1, #256" = .error .immediateRange ∧ asmWords "FLDC f3, #7" = .error .immediateRange ∧
      asmWords "PSUB pt1, pt1, pt2" = .error .overlap ∧ asmWords "FADD f3, f16, f1" = .error .wrongRegister := by
  decide

/-! ## Field commands -/

/-- V1: the sum p is stored as 0. -/
theorem test_fadd_wraps :
    fieldResult (withOperands 0xFFFFFFFF00000001000000000000000000000000FFFFFFFFFFFFFFFFFFFFFFFE#256
      0x1#256) 0x04C48000 =
      some (0x0#256, 0#4) := by
  decide +kernel

/-- V2: unreduced operands, the exact residue. -/
theorem test_fadd_unreduced :
    fieldResult (withOperands 0xFFFFFFFFFFFFFFFFFFFFFFFFFFFFFFFFFFFFFFFFFFFFFFFFFFFFFFFFFFFFFFFF#256
      0xFFFFFFFFFFFFFFFFFFFFFFFFFFFFFFFFFFFFFFFFFFFFFFFFFFFFFFFFFFFFFFFF#256) 0x04C48000 =
      some (0x1FFFFFFFDFFFFFFFFFFFFFFFFFFFFFFFE000000000000000000000000#256, 0#4) := by
  decide +kernel

/-- V6: 0 - 1 modulo n. -/
theorem test_fsub_negative :
    fieldResult (withOperands 0x0#256 0x1#256) 0x08C48100 =
      some (0xFFFFFFFF00000000FFFFFFFFFFFFFFFFBCE6FAADA7179E84F3B9CAC2FC632550#256, 0#4) := by
  decide +kernel

/-- V9: an unreduced operand. -/
theorem test_fsub_unreduced :
    fieldResult (withOperands 0x1#256
      0xFFFFFFFF00000001000000000000000000000001000000000000000000000001#256) 0x08C48000 =
      some (0xFFFFFFFF00000001000000000000000000000000FFFFFFFFFFFFFFFFFFFFFFFE#256, 0#4) := by
  decide +kernel

/-- V11: the 512-bit product of the largest operands. -/
theorem test_fmul_unreduced :
    fieldResult (withOperands 0xFFFFFFFFFFFFFFFFFFFFFFFFFFFFFFFFFFFFFFFFFFFFFFFFFFFFFFFFFFFFFFFF#256
      0xFFFFFFFFFFFFFFFFFFFFFFFFFFFFFFFFFFFFFFFFFFFFFFFFFFFFFFFFFFFFFFFF#256) 0x0CC48000 =
      some (0x2FFFFFFFFFFFFFFFFFFFFFFFEFFFFFFFDFFFFFFFF0000000000000002#256, 0#4) := by
  decide +kernel

/-- V12: (n - 1) squared modulo n. -/
theorem test_fmul_by_n :
    fieldResult (withOperands 0xFFFFFFFF00000000FFFFFFFFFFFFFFFFBCE6FAADA7179E84F3B9CAC2FC632550#256
      0xFFFFFFFF00000000FFFFFFFFFFFFFFFFBCE6FAADA7179E84F3B9CAC2FC632550#256) 0x0CC48100 =
      some (0x1#256, 0#4) := by
  decide +kernel

/-- V15: the inverse of 2. -/
theorem test_finv_two :
    fieldResult (withOperands 0x2#256 0x0#256) 0x10C40000 =
      some (0x7FFFFFFF80000000800000000000000000000000800000000000000000000000#256, 0#4) := by
  decide +kernel

/-- V21: p has no inverse; nothing is written. -/
theorem test_finv_of_modulus :
    fieldResult (withOperands 0xFFFFFFFF00000001000000000000000000000000FFFFFFFFFFFFFFFFFFFFFFFF#256
      0x0#256) 0x10C40000 =
      some (0x0#256, 2#4) := by
  decide +kernel

/-- V24: 0 to the power 0 is 1. -/
theorem test_fexp_zero_zero :
    fieldResult (withOperands 0x0#256 0x0#256) 0x14C48000 = some (0x1#256, 0#4) := by
  decide +kernel

/-- V30: the exponent is not reduced. -/
theorem test_fexp_raw_exponent :
    fieldResult (withOperands 0x2#256
      0xFFFFFFFFFFFFFFFFFFFFFFFFFFFFFFFFFFFFFFFFFFFFFFFFFFFFFFFFFFFFFFFF#256) 0x14C48000 =
      some (0xA178D7C2DFE5FFCFDEFD5C58DF98E83742DA58D3C41FAC47E1C198BFDB3EDBC7#256, 0#4) := by
  decide +kernel

/-- V31: less is 11. -/
theorem test_fcmp_less :
    flagResult (withOperands 0x1#256 0x2#256) 0x18048000 = some (3#2, false, false, false, 0#4) := by
  decide +kernel

/-- V34: p is greater than 0: no modulus. -/
theorem test_fcmp_unreduced :
    flagResult (withOperands 0xFFFFFFFF00000001000000000000000000000000FFFFFFFFFFFFFFFFFFFFFFFF#256
      0x0#256) 0x18048000 =
      some (1#2, false, false, false, 0#4) := by
  decide +kernel

/-- V37: zero. -/
theorem test_fisz_zero :
    flagResult (withOperands 0x0#256 0x0#256) 0x1C040000 = some (0#2, true, false, false, 0#4) := by
  decide +kernel

/-- V38: p is not zero: the raw integer is tested. -/
theorem test_fisz_raw :
    flagResult (withOperands 0xFFFFFFFF00000001000000000000000000000000FFFFFFFFFFFFFFFFFFFFFFFF#256
      0x0#256) 0x1C040000 =
      some (0#2, false, false, false, 0#4) := by
  decide +kernel

/-- V40: the most significant bit of n. -/
theorem test_ftbit_top :
    flagResult (withOperands 0xFFFFFFFF00000000FFFFFFFFFFFFFFFFBCE6FAADA7179E84F3B9CAC2FC632551#256
      0x0#256) 0x200400FF =
      some (0#2, false, true, false, 0#4) := by
  decide +kernel

/-- V45: bit 96 of p. -/
theorem test_ftbit_clear :
    flagResult (withOperands 0xFFFFFFFF00000001000000000000000000000000FFFFFFFFFFFFFFFFFFFFFFFF#256
      0x0#256) 0x20040060 =
      some (0#2, false, false, false, 0#4) := by
  decide +kernel

/-- V46: no reduction. -/
theorem test_fmov_raw :
    fieldResult (withOperands 0xFFFFFFFFFFFFFFFFFFFFFFFFFFFFFFFFFFFFFFFFFFFFFFFFFFFFFFFFFFFFFFFF#256
      0x0#256) 0x24C40000 =
      some (0xFFFFFFFFFFFFFFFFFFFFFFFFFFFFFFFFFFFFFFFFFFFFFFFFFFFFFFFFFFFFFFFF#256, 0#4) := by
  decide +kernel

/-- V52: the constant n. -/
theorem test_fldc_order :
    fieldResult (withOperands 0x0#256 0x0#256) 0x28C00005 =
      some (0xFFFFFFFF00000000FFFFFFFFFFFFFFFFBCE6FAADA7179E84F3B9CAC2FC632551#256, 0#4) := by
  decide +kernel

/-- V54: selector 7 is ILLEGAL; nothing is written. -/
theorem test_fldc_selector_seven :
    fieldResult (withOperands 0x0#256 0x0#256) 0x28C00007 = some (0x0#256, 1#4) := by
  decide +kernel

/-! ## Point, multiplication and system commands -/

/-- V55: PT[0] held G. -/
theorem test_pseti_overwrites :
    pointResult (withPoints pG pG) 0x40000000 0 = some (.identity, 0#4) := by
  decide +kernel

/-- R79, P2a: p + 5 is stored as 5 and p as 0. -/
theorem test_pseta_reduces :
    pointResult (withOperands 0xFFFFFFFF00000001000000000000000000000001000000000000000000000004#256
      0xFFFFFFFF00000001000000000000000000000000FFFFFFFFFFFFFFFFFFFFFFFF#256) 0x44048000 0 =
      some (aff 5#256 0#256, 0#4) := by
  decide +kernel

/-- V58: (0, 0) is an affine point, not the identity. -/
theorem test_pseta_origin :
    pointResult (withOperands 0#256 0#256) 0x44048000 0 = some (aff 0#256 0#256, 0#4) := by
  decide +kernel

/-- V61: Z = p is 0 modulo p: the identity. -/
theorem test_psetj_zero_z :
    pointResult (withThird gxv gyv 0xFFFFFFFF00000001000000000000000000000000FFFFFFFFFFFFFFFFFFFFFFFF#256)
      0x48448C00 1 =
      some (.identity, 0#4) := by
  decide +kernel

/-- V62: Z = p + 2 is stored as 2. -/
theorem test_psetj_reduces_z :
    pointResult (withThird gxv gyv 0xFFFFFFFF00000001000000000000000000000001000000000000000000000001#256)
      0x48448C00 1 =
      some (jac gxv gyv 2#256, 0#4) := by
  decide +kernel

/-- V63: the base point into PT[4]. -/
theorem test_psetg_base :
    pointResult (State.reset) 0x4D000000 4 = some (pG, 0#4) := by
  decide +kernel

/-- V64: the projective X. -/
theorem test_pgetx_jacobian :
    fieldResult (withPoints pG p2Gj) 0x50C40000 = some (p2Gj.x, 0#4) := by
  decide +kernel

/-- V67: the identity reads 0, over F[3] = 9. -/
theorem test_pgetx_identity :
    fieldResult (withPoints pG .identity |>.writeF 3 9#256) 0x50C40000 = some (0#256, 0#4) := by
  decide +kernel

/-- V65: the projective Y. -/
theorem test_pgety_jacobian :
    fieldResult (withPoints pG p2Gj) 0x54C40000 = some (p2Gj.y, 0#4) := by
  decide +kernel

/-- V66: the stored Z. -/
theorem test_pgetz_jacobian :
    fieldResult (withPoints pG p2Gj) 0x58C40000 = some (p2Gj.z, 0#4) := by
  decide +kernel

/-- V68: an affine point has Z = 0, over F[3] = 9. -/
theorem test_pgetz_affine :
    fieldResult (((withPoints pG pG).writePt 2 pG).writeF 3 9#256) 0x58C80000 = some (0#256, 0#4) := by
  decide +kernel

/-- V69: tag and coordinates, bit for bit. -/
theorem test_pmov_exact :
    pointResult (withPoints pG pGscaled) 0x5C840000 2 = some (pGscaled, 0#4) := by
  decide +kernel

/-- V70: y becomes p - y. -/
theorem test_pneg_affine :
    pointResult (withPoints pG pG) 0x60840000 2 = some (pNegG, 0#4) := by
  decide +kernel

/-- V73: y = 0 stays 0. -/
theorem test_pneg_zero_y :
    pointResult (withPoints pG (aff 5#256 0#256)) 0x60840000 2 = some (aff 5#256 0#256, 0#4) := by
  decide +kernel

/-- V74: 2G on the affine path. -/
theorem test_pdbl_affine :
    pointResult (withPoints pG pG) 0x64840000 2 = some (p2G, 0#4) := by
  decide +kernel

/-- V75: the Jacobian path, its own coordinates. -/
theorem test_pdbl_jacobian :
    pointResult (withPoints pG pGj) 0x64840000 2 = some (p2Gj, 0#4) := by
  decide +kernel

/-- V85: G + 2G on the affine path. -/
theorem test_padd_chord :
    pointResult (withPoints pG p2G) 0x68804000 2 = some (p3G, 0#4) := by
  decide +kernel

/-- V87: an affine and a Jacobian operand take the Jacobian path. -/
theorem test_padd_mixed :
    pointResult (withPoints pG p2Gj) 0x68804000 2 = some (p3Gj, 0#4) := by
  decide +kernel

/-- V95: a Jacobian form of G with Z = 2 is on the curve. -/
theorem test_ponc_scaled :
    flagResult (withPoints pG pGscaled) 0x6C040000 = some (0#2, false, false, true, 0#4) := by
  decide +kernel

/-- V97: (0, 0) is not on the curve; the flag is cleared. -/
theorem test_ponc_origin :
    flagResult ((withPoints pG (aff 0#256 0#256)).setOnc true) 0x6C040000 =
      some (0#2, false, false, false, 0#4) := by
  decide +kernel

/-- V100: one inverse of Z. -/
theorem test_paff_jacobian :
    pointResult (withPoints pG p2Gj) 0x70840000 2 = some (p2G, 0#4) := by
  decide +kernel

/-- V101: the identity stays. -/
theorem test_paff_identity :
    pointResult (withPoints pG .identity) 0x70840000 2 = some (.identity, 0#4) := by
  decide +kernel

/-- V104: Z = 1. -/
theorem test_pjac_affine :
    pointResult (withPoints pG pG) 0x74840000 2 = some (pGj, 0#4) := by
  decide +kernel

/-- V106: the identity stays. -/
theorem test_pjac_identity :
    pointResult (withPoints pG .identity) 0x74840000 2 = some (.identity, 0#4) := by
  decide +kernel

/-- V109 and the Jacobian detail under V119: 2G as the multiplier leaves it. -/
theorem test_psmul_two :
    pointResult ((withPoints pG pG).writeF 0 2#256) 0x80400000 1 = some (p2Gj, 0#4) := by
  decide +kernel

/-- V112: the Z of (n - 1)G, which needs the 257th digit. -/
theorem test_psmul_order_minus_one :
    (pointResult ((withPoints pG pG).writeF 0 0xFFFFFFFF00000000FFFFFFFFFFFFFFFFBCE6FAADA7179E84F3B9CAC2FC632550#256)
      0x80400000 1).map (fun x => (x.1.tag, x.1.z, x.2)) =
      some (.jac, 0x254B765AEB4194B5FC959C10A2377F17CB1F4E189F296C0AC1508FF787273563#256, 0#4) := by
  decide +kernel

/-- V120: NOP completes with OK and leaves F. -/
theorem test_nop :
    fieldResult (withOperands 5#256 7#256) 0x00000000 = some (0#256, 0#4) := by
  decide +kernel

/-- V143: ZERO clears the flags that FCMP and FISZ set. -/
theorem test_zero_flags :
    flagResult (((withOperands 3#256 2#256).setCmp 1#2).setZf true) 0xC0000000 =
      some (0#2, false, false, false, 0#4) := by
  decide +kernel

/-- R101: ZERO leaves the canonical identity. -/
theorem test_zero_points :
    pointResult (withPoints pG p2Gj) 0xC0000000 1 = some (.identity, 0#4) := by
  decide +kernel

/-! ## Encoding errors, reset and the host window -/

/-- V128, R106: an illegal word completes with ERR = 1 and leaves F. -/
theorem test_illegal_word_runs :
    (after (withOperands 5#256 7#256) 0x2C000000).map (fun t => (t.readF 1, t.readF 2, t.err, t.busy, t.done)) =
      some (5#256, 7#256, 1#4, false, true) := by
  decide +kernel

/-- V120, R100: from reset with nothing placed, a START runs NOP. -/
theorem test_start_after_reset_runs_nop :
    (match step { State.reset with events := [.write 0x004#12 4 1#32] } with
      | .next t => some (t.statusWord, t.cl)
      | .fault _ => none
      | .refused _ => none) = some (0x00000001#32, 0#32) := by
  decide +kernel

/-- V136. -/
theorem test_reads_after_reset :
    State.reset.readWindow 0x000#12 = 0xEC3D0001#32 ∧ State.reset.readWindow 0x010#12 = 0x10101015#32 ∧
      State.reset.readWindow 0x008#12 = 0#32 ∧ State.reset.readWindow 0x00C#12 = 0#32 ∧
      State.reset.readWindow 0x460#12 = 2#32 := by
  decide +kernel

/-- V137: the words of p, least significant first. -/
theorem test_constant_words :
    State.reset.readWindow 0xC00#12 = 0xFFFFFFFF#32 ∧ State.reset.readWindow 0xC0C#12 = 0#32 ∧
      State.reset.readWindow 0xC18#12 = 1#32 ∧ State.reset.readWindow 0xC1C#12 = 0xFFFFFFFF#32 := by
  decide +kernel

/-- A running NOP with IRQEN = 1, as in V139. -/
def busyNop : State := { State.reset.start with irqen := true }

/-- V139, one access at a time: refused writes set WERR; the last CTRL write still clears IRQEN. -/
theorem test_writes_while_busy :
    (busyNop.writeWindow 0x104#12 0x22#32).statusWord = 5#32 ∧
      (busyNop.writeWindow 0x104#12 0x22#32).readWindow 0x104#12 = 0#32 ∧
      (busyNop.writeWindow 0x00C#12 0x04000000#32).readWindow 0x00C#12 = 0#32 ∧
      (busyNop.writeWindow 0x004#12 1#32).readWindow 0x004#12 = 0#32 ∧
      (busyNop.writeWindow 0x004#12 1#32).statusWord = 5#32 := by
  decide +kernel

/-- V140: the write of 6 to STATUS clears DONE and WERR. -/
theorem test_status_write_clears :
    ({ State.reset with done := true, werr := true }.writeWindow 0x008#12 6#32).statusWord = 0#32 := by
  decide +kernel

/-- V141: ignored writes. -/
theorem test_ignored_writes :
    State.reset.writeWindow 0x400#12 5#32 = State.reset ∧ State.reset.writeWindow 0xC00#12 5#32 = State.reset ∧
      State.reset.writeWindow 0x000#12 5#32 = State.reset ∧ State.reset.writeWindow 0x014#12 5#32 = State.reset := by
  decide +kernel

/-- V142: FINV of 0 with IRQEN = 1 ends with STATUS 0x22 and raises irq. -/
theorem test_noinv_raises_irq :
    (after { State.reset with irqen := true } 0x10400000).map (fun t => (t.statusWord, t.irq)) =
      some (0x00000022#32, true) := by
  decide +kernel

/-- V143: FISZ after FCMP keeps CMP. -/
theorem test_status_flags :
    (after ((withOperands 3#256 2#256).setCmp 1#2) 0x1C0C0000).map State.statusWord = some 0x00000502#32 := by
  decide +kernel

/-- P5, accesses 8 and 9: one word of F[0] and one of F[1]. -/
theorem test_field_word_writes :
    (State.reset.writeWindow 0x11C#12 0xFFFFFFFF#32).readF 0 = 0xFFFFFFFF#256 <<< 224 ∧
      (State.reset.writeWindow 0x120#12 2#32).readF 1 = 2#256 := by
  decide +kernel

/-- R37: an access of two bytes has no step. -/
theorem test_narrow_access_has_no_step :
    (match step { State.reset with events := [.read 0x008#12 2] } with
      | .next _ => false
      | .fault r => r == .busRefused 0x008#12 2
      | .refused _ => false) = true := by
  decide +kernel

/-! ## Configurations (R9, R11) -/

/-- y² = x³ + x + 1 over the integers mod 5, with the base point (0, 1) of order 9. -/
def curve5 : Curve := ⟨5#256, 1#256, 1#256, 0#256, 1#256, 9#256, 1#256⟩

theorem test_small_curve_is_accepted : Config.Valid ⟨curve5, 3, 257, 0#32⟩ := by decide

/-- R9: p = 9 is odd and at least 5, but not prime. -/
theorem test_composite_p_is_refused : bootBlock ⟨{ curve5 with p := 9#256 }, 3, 257, 0#32⟩ = none := by
  decide

/-- R11: a window of one bit is refused. -/
theorem test_narrow_window_is_refused : bootBlock ⟨curve5, 1, 257, 0#32⟩ = none := by decide

theorem test_hardware_is_accepted : bootBlock .hardware = some State.reset := if_pos hardware_valid

/-! ## The wNAF encoder (section L2.3) -/

/-- The nonzero digits with their indices. -/
def nonzeroDigits (ds : List Int) : List (Nat × Int) :=
  (ds.zipIdx.filter (fun x => x.1 != 0)).map (fun x => (x.2, x.1))

theorem test_wnaf_digits :
    nonzeroDigits (wnafDigits 5 257 0x11) = [(0, -15), (5, 1)] ∧
      nonzeroDigits (wnafDigits 5 257 0x1F) = [(0, -1), (5, 1)] ∧
      nonzeroDigits (wnafDigits 5 257 0xFFFF) = [(0, -1), (16, 1)] := by
  decide +kernel

/-- Conflict C3: with 256 digits the encoder leaves 1 of k = 2^256 - 1. -/
theorem test_wnaf_remainder :
    wnafRem 5 256 (2 ^ 256 - 1) = 1 ∧ wnafRem 5 257 (2 ^ 256 - 1) = 0 ∧
      nonzeroDigits (wnafDigits 5 257 (2 ^ 256 - 1)) = [(0, -1), (256, 1)] := by
  decide +kernel

/-! ## Witnesses: for each statement with hypotheses, states and operands that meet all of them -/

/-- A state with one event to come. -/
def withEvent (e : Event) (s : State) : State := { s with events := [e] }

/-- A running command whose word is `w`. -/
def running (w : Word) : State := { State.reset with cmd := w }.start

/-- The outcome is a next state with property `p`. -/
def nextWith (p : State → Bool) (o : Host.Outcome State Fault Refusal) : Bool :=
  match o with
  | .next t => p t
  | .fault _ => false
  | .refused _ => false

theorem nextWith_iff {p : State → Bool} {o : Host.Outcome State Fault Refusal} :
    nextWith p o = true ↔ ∃ t, o = .next t ∧ p t = true := by
  cases o <;> simp [nextWith]

/-- `PSETG pt3` placed as the first command after reset runs in the very next step. -/
theorem test_launch :
    nextWith (fun t => t.readPt 3 == ⟨.aff, secp256r1.gx, secp256r1.gy, 0#256⟩ && t.done && t.cmd == 0x4CC00000#32)
      (step (State.reset.withFetchWord 32 0x4CC00000)) = true := by
  decide +kernel

theorem witness_DecodeOfEncodedCommand :
    (Instr.fldc 15 6).wellFormed = true ∧ (Instr.psetj 15 14 13 12).wellFormed = true := by decide

theorem witness_EncodeOfDecodedWord : decode 0x2A400005#32 = .ok (.fldc 9 5) := by decide

theorem witness_LegalWordsMatchOpcodeTable :
    ∃ r ∈ opcodeTable, 0x28000006#32 &&& r.mask = r.bits ∧
      (r.mnemonic = "FLDC" → ((0x28000006#32).extractLsb' 0 8).toNat ≤ 6) :=
  ⟨⟨"FLDC", 0x28000000#32, 0xFC3FFF00#32⟩, by decide, by decide, fun _ => by decide⟩

/-- The reserved opcodes at the ends of their four ranges, a modular word with M = 2 and one with M = 3, FLDC #7. -/
theorem witness_ReservedAndMalformedWordsRejected :
    decode 0x2C000000#32 = .error .reservedOpcode ∧ decode 0x3C000000#32 = .error .reservedOpcode ∧
      decode 0x78000000#32 = .error .reservedOpcode ∧ decode 0x7C000000#32 = .error .reservedOpcode ∧
      decode 0x84000000#32 = .error .reservedOpcode ∧ decode 0xBC000000#32 = .error .reservedOpcode ∧
      decode 0xC4000000#32 = .error .reservedOpcode ∧ decode 0xFC000000#32 = .error .reservedOpcode ∧
      1 ≤ ((0x04000200#32).extractLsb' 26 6).toNat ∧ ((0x17C00300#32).extractLsb' 26 6).toNat ≤ 5 ∧
      (0x04000200#32).getLsbD 9 = true ∧ (0x17C00300#32).getLsbD 9 = true ∧
      ((0x28000007#32).extractLsb' 26 6).toNat = 0x0A ∧ 6 < ((0x28000007#32).extractLsb' 0 8).toNat := by
  decide

theorem witness_AssemblerEmitsLegalWords : asmWords "PSMULG pt3, f15" = .ok [0x4CC00000#32, 0x80CFC000#32] := by decide

theorem witness_PseudoInstructionExpansions :
    parseF ['f', '1', '5'] = .ok 15 ∧ parseF ['f', '0'] = .ok 0 ∧ parsePt ['p', 't', '9'] = .ok 9 ∧
      parsePt ['p', 't', '1', '0'] = .ok 10 := by
  decide

theorem witness_StepRunsLatchedCommand :
    (withEvent .engine (running 0xC0000000#32)).busy = true ∧
      nextEvent (withEvent .engine (running 0xC0000000#32)) = (.engine, []) ∧
      decode (withEvent .engine (running 0xC0000000#32)).cl = .ok .zero := by
  decide +kernel

theorem witness_StepOnIllegalWord :
    (running 0xFFFFFFFF#32).busy = true ∧ nextEvent (running 0xFFFFFFFF#32) = (.engine, []) ∧
      decode (running 0xFFFFFFFF#32).cl = .error .reservedOpcode := by
  decide +kernel

theorem witness_IdleEngineTurnChangesNothing :
    State.reset.busy = false ∧ nextEvent State.reset = (.engine, []) := by
  decide +kernel

/-- A START from reset with the accesses of V139 still to come: a refused write of F, one of CMD, a second START. -/
def busyAccesses : State :=
  { State.reset with events := [.write 0x004#12 4 3#32, .write 0x104#12 4 0x22#32, .write 0x00C#12 4 0x04000000#32,
      .write 0x004#12 4 1#32] }

/-- A START from reset with one read before the engine's turn. -/
def busyRead : State := { State.reset with events := [.write 0x004#12 4 3#32, .read 0x008#12 4] }

theorem busy_not_idle {s : State} (h : s.busy = true) : ¬ s.Idle := by simp [State.Idle, h]

/-- A command run from its START, the first event, and the run that follows. -/
theorem commandRun_of_start {s : State} (v : Word) (es : List Event) (hev : s.events = .write 0x004#12 4 v :: es)
    (hi : s.busy = false) (h0 : v.getLsbD 0 = true) {u t : State} (hu : step s = .next u)
    (hr : RunUntil State.Idle u t) : CommandRun s t :=
  ⟨⟨hi, v, by simp only [nextEvent, hev], h0⟩, u, hu, hr⟩

/-- The engine's turn on a busy block whose latch holds NOP ends the run. -/
theorem runUntil_nop {s : State} (hb : s.busy = true) (he : (nextEvent s).1 = .engine) (hn : s.cl = 0#32) :
    RunUntil State.Idle s ({ s with events := (nextEvent s).2 }.complete .ok) := by
  refine .more (busy_not_idle hb) (by simp [he]) ?_ (.ended rfl)
  have hd : decode s.cl = .ok .nop := by rw [hn]; decide
  rw [step_engine_busy hb he]
  simp only [completeLatched, hd]
  rfl

/-- V139 as one command run: WERR set by the refused writes, IRQEN 0 by the last CTRL write, CMD and F as they were. -/
theorem test_command_run_with_busy_accesses :
    CommandRun busyAccesses { State.reset with werr := true, done := true } :=
  commandRun_of_start 3#32 _ rfl rfl rfl rfl <|
    .more (busy_not_idle rfl) (by decide) rfl <|
    .more (busy_not_idle rfl) (by decide) rfl <|
    .more (busy_not_idle rfl) (by decide) rfl <| runUntil_nop rfl rfl rfl

/-- The starts, the reads, the sequences and the busy block the five clauses ask for. -/
theorem witness_CommandRunEnds :
    busyAccesses.busy = false ∧ (3#32).getLsbD 0 = true ∧
      (∀ e ∈ busyAccesses.events.tail.takeWhile (fun e => e != .engine), e.ordinary = true) ∧
      (∃ t, CommandRun busyAccesses t) ∧
      (∀ e ∈ busyRead.events.tail.takeWhile (fun e => e != .engine), e.isRead = true) ∧ (∃ t, CommandRun busyRead t) ∧
      (∀ e ∈ busyAccesses.events, e.ordinary = true) ∧
      busyNop.busy = true ∧ busyNop.Delivered ∧ ∃ t, HostProgramRun busyNop t :=
  ⟨rfl, rfl, by decide, ⟨_, test_command_run_with_busy_accesses⟩, by decide,
    ⟨_, commandRun_of_start 3#32 _ rfl rfl rfl rfl <|
      .more (busy_not_idle rfl) (by decide) rfl <| runUntil_nop rfl rfl rfl⟩,
    by decide, rfl, fun _ h => absurd h List.not_mem_nil,
    _, .more (fun h => busy_not_idle rfl h.2) (by decide) rfl
      (.ended ⟨fun _ h => absurd h List.not_mem_nil, rfl⟩)⟩

/-- The START of an idle and of a busy block, with IRQEN 0 and 1, and a write with bit 0 = 0 and reserved bits set. -/
theorem witness_StartLatchesCommand :
    (withEvent (.write 0x004#12 4 1#32) State.reset).busy = false ∧
      (withEvent (.write 0x004#12 4 3#32) busyNop).busy = true ∧ (1#32).getLsbD 0 = true ∧
      (3#32).getLsbD 0 = true ∧ (0xFFFFFFFE#32).getLsbD 0 = false := by
  decide +kernel

theorem witness_ResetAbortsCommand : (withEvent .reset busyNop).events = [.reset] := rfl

theorem witness_reset_valid : State.reset.config.Valid := hardware_valid

theorem reset_pointsOk : State.reset.PointsOk := fun r => by
  have h : State.reset.readPt r = .identity := by simp [State.reset, State.resetOf, State.readPt]
  rw [h]
  exact identity_ok hardware_valid.1.1.pos

/-- From the reset state a NOP completes. -/
theorem witness_InvariantKeptByEveryStep :
    State.reset.Inv ∧ nextWith (fun t => !t.busy) (step State.reset) = true :=
  ⟨⟨hardware_valid, reset_pointsOk, by decide, by decide, rfl, fun h => absurd h (by decide)⟩, by decide +kernel⟩

/-- An admitted access, one of two bytes, one at an odd offset, and the last word of the window. -/
theorem witness_OnlyAlignedWordAccessesStep :
    (withEvent (.read 0xFFC#12 4) busyNop).events = [.read 0xFFC#12 4] ∧ (0xFFC#12).toNat % 4 = 0 ∧
      (withEvent (.write 0x100#12 2 1#32) busyNop).events = [.write 0x100#12 2 1#32] ∧
      (withEvent (.read 0x101#12 4) busyNop).events = [.read 0x101#12 4] ∧ (0x101#12).toNat % 4 = 1 :=
  ⟨rfl, by decide, rfl, rfl, by decide⟩

/-- The ends of the four reserved ranges. -/
theorem witness_WindowReads :
    (∀ off ∈ [0x014#12, 0x0FC#12], off.toNat % 4 = 0 ∧ 0x014 ≤ off.toNat ∧ off.toNat < 0x100) ∧
      (∀ off ∈ [0x300#12, 0x3FC#12], off.toNat % 4 = 0 ∧ 0x300 ≤ off.toNat ∧ off.toNat < 0x400) ∧
      (∀ off ∈ [0x464#12, 0x47C#12, 0xBE4#12, 0xBFC#12],
        off.toNat % 4 = 0 ∧ 0x400 ≤ off.toNat ∧ off.toNat < 0xC00 ∧ 0x64 ≤ off.toNat % 0x80) ∧
      (∀ off ∈ [0xCE0#12, 0xFFC#12], off.toNat % 4 = 0 ∧ 0xCE0 ≤ off.toNat) := by
  simp only [List.forall_mem_cons, List.not_mem_nil, false_implies, implies_true]
  decide

theorem witness_StatusWriteClearsDoneAndWerr :
    (withEvent (.write 0x008#12 4 6#32) busyNop).events = [.write 0x008#12 4 6#32] := rfl

theorem witness_FieldWordWriteWhileIdle :
    (withEvent (.write 0x2FC#12 4 5#32) State.reset).busy = false ∧
      (withEvent (.write 0x2FC#12 4 5#32) State.reset).events =
        [.write (BitVec.ofNat 12 (0x100 + 0x20 * (15#4).toNat + 4 * (7 : Fin 8).val)) 4 5#32] := by
  decide +kernel

theorem witness_CommandWriteWhileIdle :
    (withEvent (.write 0x00C#12 4 5#32) State.reset).busy = false ∧
      (withEvent (.write 0x00C#12 4 5#32) State.reset).events = [.write 0x00C#12 4 5#32] := by
  decide +kernel

/-- Each clause at the ends of its range: CMD, the first and the last F word, CTRL with START 1 and 0, STATUS, ID, CFG,
the reserved and read-only offsets. -/
theorem witness_BusyWritesRefused :
    busyNop.busy = true ∧
      (∀ off ∈ [0x00C#12, 0x100#12, 0x2FC#12],
        off.toNat % 4 = 0 ∧ (off.toNat = 0x00C ∨ (0x100 ≤ off.toNat ∧ off.toNat < 0x300))) ∧
      (0x004#12).toNat = 0x004 ∧ (3#32).getLsbD 0 = true ∧ (2#32).getLsbD 0 = false ∧ (0x008#12).toNat = 0x008 ∧
      (∀ off ∈ [0x000#12, 0x010#12, 0x0FC#12, 0x300#12, 0xFFC#12],
        off.toNat % 4 = 0 ∧ (off.toNat = 0x000 ∨ (0x010 ≤ off.toNat ∧ off.toNat < 0x100) ∨ 0x300 ≤ off.toNat)) ∧
      (withEvent (.write 0x2FC#12 4 5#32) busyNop).events = [.write 0x2FC#12 4 5#32] := by
  simp only [List.forall_mem_cons, List.not_mem_nil, false_implies, implies_true]
  decide +kernel

/-- WERR set, a step that keeps it (a completion), and one that clears it. -/
theorem witness_BusyWritesRefused_werr :
    let s : State := { busyNop with werr := true }
    s.werr = true ∧ nextWith (fun t => t.werr) (step s) = true ∧
      nextWith (fun t => t.werr) (step (withEvent (.write 0x008#12 4 4#32) s)) = false := by
  decide +kernel

theorem witness_ReservedAndReadOnlyWritesIgnored :
    (withEvent (.write 0x460#12 4 5#32) State.reset).events = [.write 0x460#12 4 5#32] ∧
      0x300 ≤ (0x460#12).toNat ∧ (0x460#12).toNat % 4 = 0 ∧
      6#32 &&& 0x00000006#32 = 0xFFFFFFFF#32 &&& 0x00000006#32 ∧
      3#32 &&& 0x00000003#32 = 0xFFFFFFFF#32 &&& 0x00000003#32 := by
  decide +kernel

theorem witness_InterruptFollowsDoneAndEnable :
    busyNop.done = false ∧ nextWith (fun t => t.done) (step busyNop) = true ∧
      nextWith (fun t => t.irq) (completeLatched busyNop) = true ∧ (2#32).getLsbD 1 = true ∧
      State.reset.busy = false ∧ (1#32).getLsbD 0 = true ∧ (1#32).getLsbD 1 = false ∧ busyNop.busy = true := by
  decide +kernel

theorem witness_TakeoverReachesCleanIdle :
    ∃ s : State, s.busy = false ∧ s.readF 3 = 7#256 ∧ (1#32).getLsbD 0 = true ∧
      s.events = [.write 0x00C#12 4 0xC0000000#32, .write 0x004#12 4 1#32, .engine, .write 0x008#12 4 6#32] :=
  ⟨{ State.reset.writeF 3 7#256 with
      events := [.write 0x00C#12 4 0xC0000000#32, .write 0x004#12 4 1#32, .engine, .write 0x008#12 4 6#32] },
    by decide +kernel⟩

theorem witness_EveryCommandCompletes : (Instr.ftbit 15 255).wellFormed = true := by decide

/-- FINV of 0 completes with an error. -/
theorem witness_ErrorsWriteNothing : nextWith (fun t => t.err == 2#4) (exec (.finv 1 0 .p) State.reset) = true := by
  decide +kernel

theorem witness_OnlyFinvReportsNoinv :
    State.reset.config.Valid ∧ State.reset.PointsOk ∧
      ∃ t, exec (.finv 1 0 .p) State.reset = .next t ∧ (t.err == 2#4) = true :=
  ⟨hardware_valid, reset_pointsOk, nextWith_iff.1 witness_ErrorsWriteNothing⟩

/-- Another CMD, latch, IRQEN, status and scratch. -/
theorem witness_ResultsIgnoreHiddenState :
    ∃ u : State, u ≠ State.reset ∧ u.config = State.reset.config ∧ u.f = State.reset.f ∧ u.pt = State.reset.pt ∧
      SameFlags State.reset u :=
  ⟨{ busyNop with scratch := ⟨[1], 1, [.inf], .inf, .inf, 1⟩, werr := true }, by decide +kernel, rfl, rfl, rfl,
    ⟨rfl, rfl, rfl, rfl⟩⟩

/-! The field commands: their hypothesis is an accepted configuration (`witness_reset_valid`). -/

theorem witness_FaddResult : (withOperands 1#256 2#256).config.Valid := hardware_valid
theorem witness_FsubResult : (withOperands 1#256 2#256).config.Valid := hardware_valid
theorem witness_FmulResult : (withOperands 1#256 2#256).config.Valid := hardware_valid

/-- The three clauses: an operand that shares no factor, one that does, and both moduli prime. -/
theorem witness_FinvResult :
    (withOperands 2#256 0#256).config.Valid ∧
      Nat.gcd (((withOperands 2#256 0#256).readF 1).toNat % (withOperands 2#256 0#256).modulus .p)
        ((withOperands 2#256 0#256).modulus .p) = 1 ∧
      Nat.gcd (((withOperands 2#256 0#256).readF 2).toNat % (withOperands 2#256 0#256).modulus .n)
        ((withOperands 2#256 0#256).modulus .n) ≠ 1 ∧
      ((withOperands 2#256 0#256).modulus .p).Prime ∧ ((withOperands 2#256 0#256).modulus .n).Prime :=
  ⟨hardware_valid, by decide +kernel, by decide +kernel, hardware_valid.1.1, secp256r1_order_prime⟩

theorem witness_FexpResult :
    (withOperands 0#256 0#256).config.Valid ∧ ((withOperands 0#256 0#256).readF 2).toNat = 0 :=
  ⟨hardware_valid, by decide +kernel⟩

/-- The three clauses: less, equal, greater. -/
theorem witness_FcmpResult :
    ((withOperands 1#256 2#256).readF 1).toNat < ((withOperands 1#256 2#256).readF 2).toNat ∧
      ((withOperands 2#256 2#256).readF 1).toNat = ((withOperands 2#256 2#256).readF 2).toNat ∧
      ((withOperands 3#256 2#256).readF 2).toNat < ((withOperands 3#256 2#256).readF 1).toNat := by
  decide +kernel

/-- The first and the last constant, and the first selector above them. -/
theorem witness_FldcResult :
    ((0#8 = 0#8 ∧ State.reset.config.curve.p = secp256r1.p) ∨ 6 < (0#8).toNat) ∧
      ((6#8 = 6#8 ∧ State.reset.config.curve.h = 1#256) ∨ 6 < (6#8).toNat) ∧ 6 < (7#8).toNat := by
  decide

theorem witness_FmovResult : (3 : RegIdx) = 3 := rfl

/-! The point commands: an accepted configuration and valid points, with each form in the operand. -/

theorem withPoints_pointsOk {p q : PointReg} (hp : p.Ok secp256r1.p.toNat) (hq : q.Ok secp256r1.p.toNat) :
    (withPoints p q).PointsOk := by
  intro r
  have hi : State.reset.readPt r = .identity := by simp [State.reset, State.resetOf, State.readPt]
  simp only [withPoints, readPt_writePt, hi]
  split
  · exact hq
  · split
    · exact hp
    · exact identity_ok hardware_valid.1.1.pos

theorem pG_ok : pG.Ok secp256r1.p.toNat := ⟨by decide, by decide, by decide, rfl⟩
theorem pNegG_ok : pNegG.Ok secp256r1.p.toNat := ⟨by decide, by decide, by decide, rfl⟩
theorem jac_z_ne_zero {x y z : Value} (h : z ≠ 0#256) : (jac x y z).z ≠ 0#256 := h

theorem pGj_ok : pGj.Ok secp256r1.p.toNat := ⟨by decide, by decide, by decide, jac_z_ne_zero (by decide)⟩
theorem pGscaled_ok : pGscaled.Ok secp256r1.p.toNat := ⟨by decide, by decide, by decide, jac_z_ne_zero (by decide)⟩

theorem witness_PsetaResult : (withOperands 5#256 5#256).config.Valid := hardware_valid

/-- Both branches: Z reduced to 0, and not. -/
theorem witness_PsetjResult :
    (withThird gxv gyv secp256r1.p).config.Valid ∧
      ((withThird gxv gyv secp256r1.p).readF 3).toNat % (withThird gxv gyv secp256r1.p).prime = 0 ∧
      ((withThird gxv gyv 1#256).readF 3).toNat % (withThird gxv gyv 1#256).prime ≠ 0 :=
  ⟨hardware_valid, by decide +kernel, by decide +kernel⟩

theorem witness_PmovResult : (15 : RegIdx) = 15 := rfl

/-- An affine and a Jacobian operand; the other registers hold the identity. -/
theorem witness_PnegResult : (withPoints pG pGj).config.Valid ∧ (withPoints pG pGj).PointsOk :=
  ⟨hardware_valid, withPoints_pointsOk pG_ok pGj_ok⟩

/-- The tangent case and the case y = 0, affine and Jacobian. -/
theorem witness_PdblResult :
    (withPoints pG pGj).config.Valid ∧ (withPoints pG pGj).PointsOk ∧
      (withPoints (aff 5#256 0#256) (jac 5#256 0#256 7#256)).PointsOk :=
  ⟨hardware_valid, withPoints_pointsOk pG_ok pGj_ok,
    withPoints_pointsOk ⟨by decide, by decide, by decide, rfl⟩
      ⟨by decide, by decide, by decide, jac_z_ne_zero (by decide)⟩⟩

/-- A vertical line of affine points, an equal pair in two forms, and a mixed pair. -/
theorem witness_PaddResult :
    (withPoints pG pNegG).config.Valid ∧ (withPoints pG pNegG).PointsOk ∧ (withPoints pGj pGscaled).PointsOk ∧
      (withPoints pG pGscaled).PointsOk :=
  ⟨hardware_valid, withPoints_pointsOk pG_ok pNegG_ok, withPoints_pointsOk pGj_ok pGscaled_ok,
    withPoints_pointsOk pG_ok pGscaled_ok⟩

/-- The same point in two Jacobian forms, a point with its negative, and two points with different x in two forms. -/
theorem witness_SamePointsDouble :
    secp256r1.Valid ∧ pGj.val.Ok secp256r1.p.toNat ∧ pGscaled.val.Ok secp256r1.p.toNat ∧
      pGj.val ≠ .inf ∧ pGscaled.val ≠ .inf ∧ pointSame secp256r1 pGj.val pGscaled.val = some true ∧
      pNegG.val.Ok secp256r1.p.toNat ∧ pointSame secp256r1 pG.val pNegG.val = some false ∧
      (aff 5#256 7#256).val.Ok secp256r1.p.toNat ∧ pointSame secp256r1 (aff 5#256 7#256).val pGscaled.val = some false ∧
      pointToAff secp256r1 pGscaled.val = some (.aff gxv.toNat gyv.toNat) ∧ 5 ≠ gxv.toNat :=
  ⟨secp256r1_valid, val_ok pGj_ok, val_ok pGscaled_ok, by decide, by decide, by decide +kernel, val_ok pNegG_ok,
    by decide +kernel, ⟨by decide, by decide⟩, by decide +kernel, by decide +kernel, by decide⟩

theorem witness_PoncResult : (withPoints pG pGj).config.Valid := hardware_valid

theorem witness_PaffResult :
    (withPoints pG pGscaled).config.Valid ∧ (withPoints pG pGscaled).PointsOk ∧
      ((withPoints pG pGscaled).readPt 1).tag = .jac :=
  ⟨hardware_valid, withPoints_pointsOk pG_ok pGscaled_ok, by decide +kernel⟩

theorem witness_PjacResult :
    (withPoints pG pGj).config.Valid ∧ (withPoints pG pGj).PointsOk ∧ ((withPoints pG pGj).readPt 0).tag = .aff :=
  ⟨hardware_valid, withPoints_pointsOk pG_ok pGj_ok, by decide +kernel⟩

/-- The equation of the curve at the base point, in the integers. -/
theorem base_point_equation :
    gyv.toNat * gyv.toNat % secp256r1.p.toNat =
      (gxv.toNat * gxv.toNat * gxv.toNat + secp256r1.a.toNat * gxv.toNat + secp256r1.b.toNat) % secp256r1.p.toNat := by
  decide +kernel

/-- The base point is a nonsingular point of the curve over `ZMod p`. -/
theorem base_point_nonsingular :
    (weierstrassOf secp256r1).Nonsingular (gxv.toNat : ZMod secp256r1.p.toNat) (gyv.toNat : ZMod secp256r1.p.toNat) := by
  rw [WeierstrassCurve.Affine.nonsingular_iff, WeierstrassCurve.Affine.equation_iff]
  refine ⟨?_, Or.inr ?_⟩
  · have h := (ZMod.natCast_eq_natCast_iff' _ _ _).2 base_point_equation
    push_cast at h
    simp only [weierstrassOf]
    linear_combination h
  · have h : ((2 * gyv.toNat : Nat) : ZMod secp256r1.p.toNat) ≠ 0 := by
      rw [Ne, ZMod.natCast_eq_zero_iff, Nat.dvd_iff_mod_eq_zero]
      decide +kernel
    intro hc
    apply h
    simp only [weierstrassOf] at hc
    push_cast
    linear_combination hc

/-- The group statements: G in affine form and with Z = 1 stand for the curve's point G. -/
theorem witness_PointCommandsFollowGroupLaw :
    ∃ (h : Fact (Nat.Prime (withPoints pG pGj).config.curve.p.toNat))
      (e f : (weierstrassOf (withPoints pG pGj).config.curve).Point),
      (withPoints pG pGj).config.Valid ∧ (withPoints pG pGj).PointsOk ∧ e ≠ 0 ∧
        @Represents _ h ((withPoints pG pGj).pointOf 0) e ∧ @Represents _ h ((withPoints pG pGj).pointOf 1) f := by
  have hfact : Fact (Nat.Prime secp256r1.p.toNat) := ⟨secp256r1_valid.1⟩
  have h0 : (withPoints pG pGj).pointOf 0 = .aff gxv.toNat gyv.toNat := by decide +kernel
  have h1 : (withPoints pG pGj).pointOf 1 = .jac gxv.toNat gyv.toNat 1 := by decide +kernel
  refine ⟨hfact, .some _ _ base_point_nonsingular, .some _ _ base_point_nonsingular, hardware_valid,
    withPoints_pointsOk pG_ok pGj_ok, WeierstrassCurve.Affine.Point.some_ne_zero _, ?_, ?_⟩
  · rw [h0]
    exact ⟨base_point_nonsingular, rfl⟩
  · rw [h1]
    have ex : (gxv.toNat : ZMod secp256r1.p.toNat) = gxv.toNat / ((1 : Nat) : ZMod secp256r1.p.toNat) ^ 2 := by simp
    have ey : (gyv.toNat : ZMod secp256r1.p.toNat) = gyv.toNat / ((1 : Nat) : ZMod secp256r1.p.toNat) ^ 3 := by simp
    refine ⟨cast_one_ne_zero secp256r1_valid, ex ▸ ey ▸ base_point_nonsingular, ?_⟩
    congr 1

theorem witness_PsmulFollowsGroupLaw :
    ∃ (h : Fact (Nat.Prime (withPoints pG pGj).config.curve.p.toNat))
      (e : (weierstrassOf (withPoints pG pGj).config.curve).Point),
      (withPoints pG pGj).config.Valid ∧ (withPoints pG pGj).PointsOk ∧ 257 ≤ (withPoints pG pGj).config.wnafL ∧
        e ≠ 0 ∧ @Represents _ h ((withPoints pG pGj).pointOf 0) e := by
  obtain ⟨h, e, _, h1, h2, h3, h4, _⟩ := witness_PointCommandsFollowGroupLaw
  exact ⟨h, e, h1, h2, by decide, h3, h4⟩

/-! ## Scalar multiplication -/

/-- The narrowest and the widest window, and the largest scalar. -/
theorem witness_WnafDigitsRepresentScalar : 2 ≤ 2 ∧ 8 ≤ 8 ∧ 257 ≤ 257 ∧ 2 ^ 256 - 1 < 2 ^ 256 := by decide

/-- The three clauses: k = 0, P = INF, k = 1. -/
theorem witness_PsmulCornerCases :
    (withPoints pG pGj).config.Valid ∧ (withPoints pG pGj).PointsOk ∧ (withPoints pG pGj).readF 0 = 0#256 ∧
      ((withPoints pG pGj).readPt 2).tag = .inf ∧ ((withPoints pG pGj).writeF 0 1#256).readF 0 = 1#256 ∧
      1 ≤ (withPoints pG pGj).config.wnafL :=
  ⟨hardware_valid, withPoints_pointsOk pG_ok pGj_ok, by decide +kernel, by decide +kernel, by decide +kernel, by decide⟩

/-- A point with y = 0, in the two-element group: the identity goes to 0 and the point to 1. -/
theorem witness_PsmulComputesMultipleOfItsPoint :
    let c := secp256r1
    let f : Point → ZMod 2 := fun v => if v = .inf then 0 else 1
    let good : Point → Prop := fun v => v = .inf ∨ v = .jac 5 0 1
    let s := withPoints (aff 5#256 0#256) .identity
    s.config.Valid ∧ 257 ≤ s.config.wnafL ∧ good .inf ∧ f .inf = 0 ∧
      (∀ v, good v → good (pointNeg c v) ∧ f (pointNeg c v) = -f v) ∧
      (∀ v q, good v → pointDbl c v = some q → good q ∧ f q = f v + f v) ∧
      (∀ v w q, good v → good w → pointAdd c v w = some q → good q ∧ f q = f v + f w) ∧
      good (pointToJac (s.pointOf 0)) ∧ f (pointToJac (s.pointOf 0)) = 1 := by
  refine ⟨hardware_valid, by decide, Or.inl rfl, by decide, ?_, ?_, ?_, Or.inr (by decide +kernel), by decide +kernel⟩
  · rintro v (rfl | rfl)
    · exact ⟨Or.inl rfl, by decide⟩
    · exact ⟨Or.inr (by decide +kernel), by decide +kernel⟩
  · rintro v q (rfl | rfl) h
    · cases h
      exact ⟨Or.inl rfl, by decide⟩
    · cases h
      exact ⟨Or.inl rfl, by decide⟩
  · rintro v w q (rfl | rfl) (rfl | rfl) h
    · cases h
      exact ⟨Or.inl rfl, by decide⟩
    · cases h
      exact ⟨Or.inr rfl, by decide⟩
    · cases h
      exact ⟨Or.inr rfl, by decide⟩
    · have h' : pointAdd secp256r1 (.jac 5 0 1) (.jac 5 0 1) = some .inf := by decide +kernel
      rw [h'] at h
      cases h
      exact ⟨Or.inl rfl, by decide⟩

/-! ## System commands -/

theorem witness_NopResult :
    ((1#32).extractLsb' 26 6).toNat = 0 ∧ 1#32 ≠ 0#32 ∧ (3#32).getLsbD 0 = true := by
  decide

theorem witness_ZeroErasesRegisters :
    ((0xC0000001#32).extractLsb' 26 6).toNat = 0x30 ∧ 0xC0000001#32 ≠ 0xC0000000#32 := by
  decide

end Sys2Proof.Tests
end

section
/-! PROOF. Addition in the curve's group on coordinates, affine and with cleared denominators, over `ZMod p`. -/

namespace Sys2Proof.Machine

open Sys2Proof WeierstrassCurve.Affine

variable {c : Curve} [Fact (Nat.Prime c.p.toNat)]

/-- The element `e` of the curve's group is the affine point with the coordinates `x` and `y`. -/
def HasCoords (c : Curve) [Fact (Nat.Prime c.p.toNat)] (e : (weierstrassOf c).Point) (x y : ZMod c.p.toNat) : Prop :=
  ∃ h, e = .some x y h

variable {e f : (weierstrassOf c).Point} {x y x₁ y₁ x₂ y₂ l : ZMod c.p.toNat}

/-! The group law on coordinates, for a curve y² = x³ + ax + b -/

theorem HasCoords.congr (h : HasCoords c e x₁ y₁) (hx : x₁ = x₂) (hy : y₁ = y₂) : HasCoords c e x₂ y₂ :=
  hx ▸ hy ▸ h

theorem weierstrassOf_negY : (weierstrassOf c).negY x y = -y := by
  simp [negY, weierstrassOf]

/-- The x-coordinate of the sum of two points on a line of slope l. -/
theorem weierstrassOf_addX : (weierstrassOf c).addX x₁ x₂ l = l ^ 2 - x₁ - x₂ := by
  simp [addX, weierstrassOf]

/-- The y-coordinate of that sum. -/
theorem weierstrassOf_addY :
    (weierstrassOf c).addY x₁ x₂ y₁ l = l * (x₁ - (l ^ 2 - x₁ - x₂)) - y₁ := by
  rw [addY, weierstrassOf_negY, negAddY, weierstrassOf_addX]
  ring

theorem HasCoords.neg (h : HasCoords c e x y) : HasCoords c (-e) x (-y) := by
  obtain ⟨hn, rfl⟩ := h
  exact HasCoords.congr ⟨_, Point.neg_some hn⟩ rfl weierstrassOf_negY

/-- Points with one x-coordinate are equal or opposite. -/
theorem HasCoords.y_eq_or_neg (he : HasCoords c e x y₁) (hf : HasCoords c f x y₂) : y₁ = y₂ ∨ y₁ = -y₂ := by
  obtain ⟨h₁, rfl⟩ := he
  obtain ⟨h₂, rfl⟩ := hf
  exact (Y_eq_of_X_eq h₁.1 h₂.1 rfl).imp_right fun h => h.trans weierstrassOf_negY

theorem HasCoords.unique (he : HasCoords c e x y) (hf : HasCoords c f x y) : e = f := by
  obtain ⟨_, rfl⟩ := he
  obtain ⟨_, rfl⟩ := hf
  rfl

theorem HasCoords.add_opposite (he : HasCoords c e x y₁) (hf : HasCoords c f x y₂) (hy : y₁ = -y₂) : e + f = 0 := by
  obtain ⟨_, rfl⟩ := he
  obtain ⟨_, rfl⟩ := hf
  exact Point.add_of_Y_eq rfl (hy.trans weierstrassOf_negY.symm)

/-- The chord rule. -/
theorem HasCoords.add_chord (he : HasCoords c e x₁ y₁) (hf : HasCoords c f x₂ y₂) (hx : x₁ ≠ x₂)
    (hl : l * (x₂ - x₁) = y₂ - y₁) :
    HasCoords c (e + f) (l ^ 2 - x₁ - x₂) (l * (x₁ - (l ^ 2 - x₁ - x₂)) - y₁) := by
  obtain ⟨h₁, rfl⟩ := he
  obtain ⟨h₂, rfl⟩ := hf
  have hs : (weierstrassOf c).slope x₁ x₂ y₁ y₂ = l := by
    rw [slope_of_X_ne hx, div_eq_iff (sub_ne_zero.2 hx)]
    linear_combination hl
  refine HasCoords.congr ⟨_, Point.add_of_X_ne hx⟩ ?_ ?_
  · rw [hs, weierstrassOf_addX]
  · rw [hs, weierstrassOf_addY]

/-- The tangent rule. -/
theorem HasCoords.add_self (he : HasCoords c e x y) (hy : 2 * y ≠ 0)
    (hl : l * (2 * y) = 3 * x ^ 2 + (c.a.toNat : ZMod c.p.toNat)) :
    HasCoords c (e + e) (l ^ 2 - 2 * x) (l * (x - (l ^ 2 - 2 * x)) - y) := by
  obtain ⟨h, rfl⟩ := he
  have hne : y ≠ (weierstrassOf c).negY x y := by
    intro h0
    rw [weierstrassOf_negY] at h0
    exact hy (by linear_combination h0)
  have hs : (weierstrassOf c).slope x x y y = l := by
    rw [slope_of_Y_ne rfl hne, weierstrassOf_negY, div_eq_iff (by rwa [sub_neg_eq_add, ← two_mul])]
    simp only [weierstrassOf]
    linear_combination -hl
  refine HasCoords.congr ⟨_, Point.add_self_of_Y_ne hne⟩ ?_ ?_
  · rw [hs, weierstrassOf_addX]
    ring
  · rw [hs, weierstrassOf_addY]
    ring

/-- A point with y = 0 is its own opposite. -/
theorem HasCoords.add_self_of_y_eq_zero (he : HasCoords c e x y) (hy : y = 0) : e + e = 0 :=
  he.add_opposite he (by rw [hy, neg_zero])

/-! The same rules on coordinates x/z², y/z³, with the denominators cleared -/

variable {z k m s u₁ u₂ s₁ s₂ x₃ : ZMod c.p.toNat}

/-- Jacobian coordinates may be scaled by any k ≠ 0. -/
theorem HasCoords.rescale (he : HasCoords c e (x / z ^ 2) (y / z ^ 3)) (hk : k ≠ 0) :
    HasCoords c e (x * k ^ 2 / (z * k) ^ 2) (y * k ^ 3 / (z * k) ^ 3) := by
  rwa [mul_pow, mul_pow, mul_div_mul_right _ _ (pow_ne_zero 2 hk), mul_div_mul_right _ _ (pow_ne_zero 3 hk)]

/-- The tangent rule as R71 computes it on a Jacobian point, with the denominator z₃ = 2yz. -/
theorem HasCoords.add_self_jacobian (he : HasCoords c e (x / z ^ 2) (y / z ^ 3)) (h2 : (2 : ZMod c.p.toNat) ≠ 0)
    (hy : y ≠ 0) (hz : z ≠ 0) (hm : m = 3 * x ^ 2 + (c.a.toNat : ZMod c.p.toNat) * z ^ 4)
    (hs : s = 4 * (x * y ^ 2)) (hx₃ : x₃ = m ^ 2 - 2 * s) :
    HasCoords c (e + e) (x₃ / (2 * (y * z)) ^ 2) ((m * (s - x₃) - 8 * y ^ 4) / (2 * (y * z)) ^ 3) := by
  have hsum := he.add_self (l := m / (2 * (y * z))) (mul_ne_zero h2 (div_ne_zero hy (pow_ne_zero 3 hz))) (by
    rw [hm]
    field_simp)
  subst hs hx₃
  refine hsum.congr ?_ ?_
  · field_simp
    ring
  · field_simp
    ring

/-- The chord rule as R73 computes it on Jacobian points with one denominator z: h = u₂ − u₁ and r = s₂ − s₁ are the
differences of the numerators, and the sum's denominator is h·z. -/
theorem HasCoords.add_chord_jacobian {h r : ZMod c.p.toNat} (he : HasCoords c e (u₁ / z ^ 2) (s₁ / z ^ 3))
    (hf : HasCoords c f (u₂ / z ^ 2) (s₂ / z ^ 3)) (hz : z ≠ 0) (hh : h = u₂ - u₁) (h0 : h ≠ 0) (hr : r = s₂ - s₁)
    (hx₃ : x₃ = r ^ 2 - h ^ 3 - 2 * (u₁ * h ^ 2)) :
    HasCoords c (e + f) (x₃ / (h * z) ^ 2) ((r * (u₁ * h ^ 2 - x₃) - s₁ * h ^ 3) / (h * z) ^ 3) := by
  obtain rfl : u₂ = u₁ + h := by rw [hh, add_sub_cancel]
  obtain rfl : s₂ = s₁ + r := by rw [hr, add_sub_cancel]
  have hne : u₁ / z ^ 2 ≠ (u₁ + h) / z ^ 2 := by
    rw [add_div, Ne, left_eq_add]
    exact div_ne_zero h0 (pow_ne_zero 2 hz)
  have hsum := he.add_chord (l := r / (h * z)) hf hne (by
    field_simp
    ring)
  subst hx₃
  refine hsum.congr ?_ ?_
  · field_simp
    ring
  · field_simp
    ring

end Sys2Proof.Machine
end

section
/-! PROOF. Each point function computes its group operation on the elements its operands stand for (R70 to R76). -/

namespace Sys2Proof.Machine

open Sys2Proof

variable {c : Curve} [Fact (Nat.Prime c.p.toNat)] {e f : (weierstrassOf c).Point} {v w q : Point}
  {x y z x₁ y₁ z₁ x₂ y₂ z₂ : Nat}

/-- An inverse that `invMod` answers is one. -/
theorem mul_invMod_eq_one {m a i : Nat} (hm : 1 < m) (hb : m < 2 ^ 256) (h : invMod m a = some i) :
    (a : ZMod m) * i = 1 := by
  rcases invMod_spec a hm hb with ⟨_, j, hj, _, hmul⟩ | ⟨_, hn⟩
  · rw [h, Option.some.injEq] at hj
    rwa [hj]
  · rw [h] at hn
    cases hn

theorem represents_inf : Represents c .inf e ↔ e = 0 := Iff.rfl

theorem represents_aff : Represents c (.aff x y) e ↔ HasCoords c e x y := Iff.rfl

theorem represents_jac : Represents c (.jac x y z) e ↔
    (z : ZMod c.p.toNat) ≠ 0 ∧ HasCoords c e ((x : ZMod c.p.toNat) / (z : ZMod c.p.toNat) ^ 2)
      ((y : ZMod c.p.toNat) / (z : ZMod c.p.toNat) ^ 3) := Iff.rfl

/-- An affine point and its promotion to Z = 1 stand for the same element. -/
theorem represents_jac_one (hc : c.Valid) (h : Represents c (.aff x y) e) : Represents c (.jac x y 1) e :=
  represents_jac.2 ⟨cast_one_ne_zero hc, (represents_aff.1 h).congr (by simp) (by simp)⟩

theorem pointToJac_represents (hc : c.Valid) (h : Represents c v e) : Represents c (pointToJac v) e := by
  cases v with
  | inf => exact h
  | aff x y => exact represents_jac_one hc h
  | jac x y z => exact h

theorem pointToAff_represents (hc : c.Valid) (h : Represents c v e) (hq : pointToAff c v = some q) :
    Represents c q e := by
  cases v with
  | inf =>
    cases hq
    exact h
  | aff x y =>
    cases hq
    exact h
  | jac x y z =>
    obtain ⟨hz, hxy⟩ := represents_jac.1 h
    simp only [pointToAff] at hq
    split at hq
    next => cases hq
    next i hi =>
      cases hq
      have hi' : (i : ZMod c.p.toNat) = (z : ZMod c.p.toNat)⁻¹ :=
        (inv_eq_of_mul_eq_one_right (mul_invMod_eq_one hc.1.one_lt c.p.isLt hi)).symm
      refine represents_aff.2 (hxy.congr ?_ ?_)
      · simp only [cast_mulMod, hi']
        field_simp
      · simp only [cast_mulMod, hi']
        field_simp

theorem pointNeg_represents (hc : c.Valid) (h : Represents c v e) : Represents c (pointNeg c v) (-e) := by
  have hp := hc.1.pos
  cases v with
  | inf => exact represents_inf.2 (by rw [represents_inf.1 h, neg_zero])
  | aff x y => exact represents_aff.2 ((represents_aff.1 h).neg.congr rfl (by simp [cast_subMod hp]))
  | jac x y z =>
    obtain ⟨hz, hxy⟩ := represents_jac.1 h
    exact represents_jac.2 ⟨hz, hxy.neg.congr rfl (by simp [cast_subMod hp, neg_div])⟩

theorem dblAffine_represents (hc : c.Valid) (hy : (y : ZMod c.p.toNat) ≠ 0) (h : Represents c (.aff x y) e)
    (hq : dblAffine c x y = some q) : Represents c q (e + e) := by
  have hp := hc.1.pos
  simp only [dblAffine] at hq
  split at hq
  next => cases hq
  next i hi =>
    cases hq
    have hi' := mul_invMod_eq_one hc.1.one_lt c.p.isLt hi
    simp only [cast_mulMod, Nat.cast_ofNat] at hi'
    have hl : (3 * (x * x) + c.a.toNat) * i * (2 * y) = (3 * x ^ 2 + c.a.toNat : ZMod c.p.toNat) := by
      linear_combination (3 * (x : ZMod c.p.toNat) ^ 2 + c.a.toNat) * hi'
    have hsum := (represents_aff.1 h).add_self (mul_ne_zero (cast_two_ne_zero hc) hy) hl
    exact represents_aff.2 (hsum.congr (by simp [cast_subMod hp, pow_two]) (by simp [cast_subMod hp, pow_two]))

theorem dblJacobian_represents (hc : c.Valid) (hy : (y : ZMod c.p.toNat) ≠ 0) (h : Represents c (.jac x y z) e) :
    Represents c (dblJacobian c x y z) (e + e) := by
  have hp := hc.1.pos
  have h2 := cast_two_ne_zero hc
  obtain ⟨hz, hxy⟩ := represents_jac.1 h
  have hsum := hxy.add_self_jacobian h2 hy hz rfl rfl rfl
  refine represents_jac.2 ⟨?_, hsum.congr ?_ ?_⟩
  · simpa using ⟨h2, hy, hz⟩
  · simp only [cast_subMod hp, cast_mulMod, cast_addMod, Nat.cast_ofNat]
    ring
  · simp only [cast_subMod hp, cast_mulMod, cast_addMod, Nat.cast_ofNat]
    ring

theorem pointDbl_represents (hc : c.Valid) (hv : v.Ok c.p.toNat) (h : Represents c v e)
    (hq : pointDbl c v = some q) : Represents c q (e + e) := by
  cases v with
  | inf =>
    cases hq
    exact represents_inf.2 (by rw [represents_inf.1 h, add_zero])
  | aff x y =>
    simp only [pointDbl] at hq
    split at hq
    next h0 =>
      cases hq
      exact represents_inf.2 ((represents_aff.1 h).add_self_of_y_eq_zero (by simp [h0]))
    next h0 => exact dblAffine_represents hc (cast_ne_zero hv.2 h0) h hq
  | jac x y z =>
    simp only [pointDbl] at hq
    split at hq
    next h0 =>
      cases hq
      exact represents_inf.2 ((represents_jac.1 h).2.add_self_of_y_eq_zero (by simp [h0]))
    next h0 =>
      cases hq
      exact dblJacobian_represents hc (cast_ne_zero hv.2.1 h0) h

theorem addAffine_represents (hc : c.Valid) (hx : (x₁ : ZMod c.p.toNat) ≠ x₂) (he : Represents c (.aff x₁ y₁) e)
    (hf : Represents c (.aff x₂ y₂) f) (hq : addAffine c x₁ y₁ x₂ y₂ = some q) : Represents c q (e + f) := by
  have hp := hc.1.pos
  simp only [addAffine] at hq
  split at hq
  next => cases hq
  next i hi =>
    cases hq
    have hi' := mul_invMod_eq_one hc.1.one_lt c.p.isLt hi
    rw [cast_subMod hp] at hi'
    have hl : (y₂ - y₁) * i * (x₂ - x₁) = (y₂ - y₁ : ZMod c.p.toNat) := by
      linear_combination ((y₂ : ZMod c.p.toNat) - y₁) * hi'
    have hsum := (represents_aff.1 he).add_chord (represents_aff.1 hf) hx hl
    exact represents_aff.2 (hsum.congr (by simp [cast_subMod hp, pow_two]) (by simp [cast_subMod hp, pow_two]))

/-- Two products are stored with difference 0 exactly when they are equal mod m. -/
theorem subMod_mulMod_eq_zero_iff {m a b a' b' : Nat} (hm : 0 < m) :
    subMod m (mulMod m a b) (mulMod m a' b') = 0 ↔ (a : ZMod m) * b = a' * b' := by
  rw [← cast_eq_zero_iff_of_lt (subMod_lt hm), cast_subMod hm, cast_mulMod, cast_mulMod, sub_eq_zero]

/-- The first operand of `addJacobian` comes twice, as `v` in its own form and as the Jacobian (x₁, y₁, z₁); both stand
for `e`. -/
theorem addJacobian_represents (hc : c.Valid) (hv : v.Ok c.p.toNat) (hve : Represents c v e)
    (he : Represents c (.jac x₁ y₁ z₁) e) (hf : Represents c (.jac x₂ y₂ z₂) f)
    (hq : addJacobian c v x₁ y₁ z₁ x₂ y₂ z₂ = some q) : Represents c q (e + f) := by
  have hp := hc.1.pos
  obtain ⟨hz₁, hxy₁⟩ := represents_jac.1 he
  obtain ⟨hz₂, hxy₂⟩ := represents_jac.1 hf
  have h₁ := hxy₁.rescale hz₂
  have h₂ := hxy₂.rescale hz₁
  rw [mul_comm (z₂ : ZMod c.p.toNat)] at h₂
  simp only [addJacobian, subMod_mulMod_eq_zero_iff hp, cast_mulMod, ← pow_two, ← pow_succ, Nat.reduceAdd] at hq
  split at hq
  next hu =>
    rw [hu] at h₂
    split at hq
    next hs =>
      rw [hs] at h₂
      rw [← h₁.unique h₂]
      exact pointDbl_represents hc hv hve hq
    next hs =>
      cases hq
      have hz := pow_ne_zero 3 (mul_ne_zero hz₁ hz₂)
      exact represents_inf.2 (h₁.add_opposite h₂ ((h₁.y_eq_or_neg h₂).resolve_left
        fun h => hs ((div_left_inj' hz).1 h).symm))
  next hu =>
    cases hq
    have hh : (x₂ * z₁ ^ 2 - x₁ * z₂ ^ 2 : ZMod c.p.toNat) ≠ 0 := sub_ne_zero.2 hu
    have hsum := h₁.add_chord_jacobian h₂ (mul_ne_zero hz₁ hz₂) rfl hh rfl rfl
    refine represents_jac.2 ⟨?_, hsum.congr ?_ ?_⟩
    · simpa [cast_subMod hp, ← pow_two] using ⟨hh, hz₁, hz₂⟩
    · simp only [cast_subMod hp, cast_mulMod, Nat.cast_ofNat]
      ring
    · simp only [cast_subMod hp, cast_mulMod, Nat.cast_ofNat]
      ring

theorem pointAdd_represents (hc : c.Valid) (hv : v.Ok c.p.toNat) (hw : w.Ok c.p.toNat) (he : Represents c v e)
    (hf : Represents c w f) (hq : pointAdd c v w = some q) : Represents c q (e + f) := by
  cases v with
  | inf =>
    obtain rfl : w = q := by cases w <;> cases hq <;> rfl
    rwa [represents_inf.1 he, zero_add]
  | aff x₁ y₁ =>
    cases w with
    | inf =>
      cases hq
      rwa [represents_inf.1 hf, add_zero]
    | aff x₂ y₂ =>
      simp only [pointAdd] at hq
      split at hq
      next hx =>
        subst hx
        split at hq
        next hy =>
          subst hy
          rw [← (represents_aff.1 he).unique (represents_aff.1 hf)]
          exact pointDbl_represents hc hv he hq
        next hy =>
          cases hq
          exact represents_inf.2 ((represents_aff.1 he).add_opposite (represents_aff.1 hf)
            (((represents_aff.1 he).y_eq_or_neg (represents_aff.1 hf)).resolve_left
              fun h => hy (eq_of_cast_eq hv.2 hw.2 h)))
      next hx => exact addAffine_represents hc (fun h => hx (eq_of_cast_eq hv.1 hw.1 h)) he hf hq
    | jac x₂ y₂ z₂ => exact addJacobian_represents hc hv he (represents_jac_one hc he) hf hq
  | jac x₁ y₁ z₁ =>
    cases w with
    | inf =>
      cases hq
      rwa [represents_inf.1 hf, add_zero]
    | aff x₂ y₂ => exact addJacobian_represents hc hv he he (represents_jac_one hc hf) hq
    | jac x₂ y₂ z₂ => exact addJacobian_represents hc hv he he hf hq

end Sys2Proof.Machine
end

section
/-! PROOF. The point commands follow the group law: each writes what its point function answers. -/

namespace Sys2Proof.Machine

open Sys2Proof

variable {s : State} {d : RegIdx} {q : Point}

theorem exec_padd (d a b : RegIdx) (s : State) :
    exec (.padd d a b) s = .next (s.finishPoint d (pointAdd s.config.curve (s.pointOf a) (s.pointOf b))) := rfl

theorem exec_pdbl (d a : RegIdx) (s : State) :
    exec (.pdbl d a) s = .next (s.finishPoint d (pointDbl s.config.curve (s.pointOf a))) := rfl

theorem exec_pneg (d a : RegIdx) (s : State) :
    exec (.pneg d a) s = .next ((s.writePoint d (pointNeg s.config.curve (s.pointOf a))).complete .ok) := rfl

theorem exec_paff (d a : RegIdx) (s : State) :
    exec (.paff d a) s = .next (s.finishPoint d (pointToAff s.config.curve (s.pointOf a))) := rfl

theorem exec_pjac (d a : RegIdx) (s : State) :
    exec (.pjac d a) s = .next ((s.writePoint d (pointToJac (s.pointOf a))).complete .ok) := rfl

/-- Copying a register that meets R24 is writing its point value. -/
theorem exec_pmov (d a : RegIdx) {s : State} (h : s.PointsOk) :
    exec (.pmov d a) s = .next ((s.writePoint d (s.pointOf a)).complete .ok) := by
  rw [State.writePoint, State.pointOf, reg_val (h a)]
  rfl

/-- The result of a point function that answers is written (R87, R88, R90). -/
theorem exec_of_finishPoint {i : Instr} {v : Option Point} (h : exec i s = .next (s.finishPoint d v))
    (hv : v = some q) : exec i s = .next ((s.writePoint d q).complete .ok) := by
  rw [h, hv, finishPoint_some]

/-- A point destination reads back as the point value written (R23). -/
theorem pointOf_writePoint_self (s : State) (d : RegIdx) {q : Point} (hq : q.Ok s.prime) :
    (s.writePoint d q).pointOf d = q := by
  rw [State.pointOf, State.writePoint, readPt_writePt_self]
  exact val_reg_of_curve hq

/-- A command that ends by writing a point value for `e` leaves PT[d] standing for `e`. -/
theorem represents_of_exec [Fact (Nat.Prime s.config.curve.p.toNat)] {e : (weierstrassOf s.config.curve).Point}
    {i : Instr} (h : exec i s = .next ((s.writePoint d q).complete .ok)) (hq : q.Ok s.prime)
    (he : Represents s.config.curve q e) :
    ∃ t, exec i s = .next t ∧ t.err = 0#4 ∧ Represents s.config.curve (t.pointOf d) e :=
  ⟨_, h, rfl, by rwa [State.complete_pointOf, pointOf_writePoint_self s d hq]⟩

/-- Settles O53: each command writes what its point function answers on the operands' point values, and each point
function computes its group operation. -/
theorem pointCommandsFollowGroupLaw : Obligations.PointCommandsFollowGroupLaw := by
  intro s _ d a b e f hcfg hpts he hf
  have hc := hcfg.1
  have ha := pointOf_ok hpts a
  have hb := pointOf_ok hpts b
  refine ⟨?padd, ?pdbl, ?pneg, ?paff, ?pjac, ?pmov⟩
  case padd =>
    obtain ⟨q, hq, hok⟩ := pointAdd_ok hc ha hb
    exact represents_of_exec (exec_of_finishPoint (exec_padd d a b s) hq) hok (pointAdd_represents hc ha hb he hf hq)
  case pdbl =>
    obtain ⟨q, hq, hok⟩ := pointDbl_ok hc ha
    exact represents_of_exec (exec_of_finishPoint (exec_pdbl d a s) hq) hok (pointDbl_represents hc ha he hq)
  case pneg => exact represents_of_exec (exec_pneg d a s) (pointNeg_ok hc ha) (pointNeg_represents hc he)
  case paff =>
    obtain ⟨q, hq, hok⟩ := pointToAff_ok hc ha
    exact represents_of_exec (exec_of_finishPoint (exec_paff d a s) hq) hok (pointToAff_represents hc he hq)
  case pjac => exact represents_of_exec (exec_pjac d a s) (pointToJac_ok hc ha) (pointToJac_represents hc he)
  case pmov => exact represents_of_exec (exec_pmov d a hpts) ha he

end Sys2Proof.Machine
end

section
/-! PROOF. What a command does is one effect, which it computes from F, PT and the constants alone (R103). -/

namespace Sys2Proof.Machine

open Sys2Proof

/-- What a completion step writes: the code alone, or one result with the code OK (R103, R106). -/
inductive Effect where
  | nothing (code : Completion)
  | field (d : RegIdx) (v : Value)
  | point (d : RegIdx) (r : PointReg)
  | cmp (v : BitVec 2)
  | zf (v : Bool)
  | bitf (v : Bool)
  | onc (v : Bool)
  | erase

/-- The state after a completion step with the given effect. -/
def State.perform (s : State) : Effect → State
  | .nothing code => s.complete code
  | .field d v => (s.writeF d v).complete .ok
  | .point d r => (s.writePt d r).complete .ok
  | .cmp v => (s.setCmp v).complete .ok
  | .zf v => (s.setZf v).complete .ok
  | .bitf v => (s.setBitf v).complete .ok
  | .onc v => (s.setOnc v).complete .ok
  | .erase => s.eraseFiles.clearFlags.complete .ok

/-- The effect keeps R24 under the prime `p`, and R30. -/
def Effect.Ok (p : Nat) : Effect → Prop
  | .point _ r => r.Ok p
  | .cmp v => v ≠ 0b10#2
  | _ => True

/-- The effect of a point command that writes what its point function answers, or NOINV (R87). -/
def Effect.ofPoint (d : RegIdx) : Option Point → Effect
  | some q => .point d q.reg
  | none => .nothing .noinv

/-- The state with the constants, F and PT of `s` (R20). -/
def State.withInputs (u s : State) : State := { u with config := s.config, f := s.f, pt := s.pt }

variable {s u : State}

theorem perform_ofPoint (s : State) (d : RegIdx) (v : Option Point) :
    s.perform (.ofPoint d v) = s.finishPoint d v := by
  cases v <;> rfl

theorem ofPoint_ok {c : Curve} {d : RegIdx} {v : Option Point} (hc : c.Valid)
    (h : ∃ q, v = some q ∧ q.Ok c.p.toNat) : (Effect.ofPoint d v).Ok c.p.toNat := by
  obtain ⟨q, rfl, hq⟩ := h
  exact reg_ok_of_curve hc hq

theorem withInputs_eq_self (hc : u.config = s.config) (hf : u.f = s.f) (hp : u.pt = s.pt) : u.withInputs s = u := by
  rw [State.withInputs, ← hc, ← hf, ← hp]

theorem compareBits_ne_two (x y : Value) : compareBits x y ≠ 0b10#2 := by
  unfold compareBits
  split
  · decide
  · split <;> decide

/-! The commands that end in more than one way, and PSMUL -/

theorem exec_finv_some {d a : RegIdx} {m : Modulus} {v : Nat} (h : invMod (s.modulus m) (s.natF a) = some v) :
    exec (.finv d a m) s = .next ((s.writeNatF d v).complete .ok) := by
  simp only [exec, execFinv, h]

theorem exec_finv_none {d a : RegIdx} {m : Modulus} (h : invMod (s.modulus m) (s.natF a) = none) :
    exec (.finv d a m) s = .next (s.complete .noinv) := by
  simp only [exec, execFinv, h]

theorem exec_fldc_some {d : RegIdx} {i : BitVec 8} {v : Value} (h : curveConst s.config.curve i.toNat = some v) :
    exec (.fldc d i) s = .next ((s.writeF d v).complete .ok) := by
  simp only [exec, execFldc, h]

theorem exec_fldc_none {d : RegIdx} {i : BitVec 8} (h : curveConst s.config.curve i.toNat = none) :
    exec (.fldc d i) s = .next (s.complete .illegal) := by
  simp only [exec, execFldc, h]

theorem exec_psetj_inf {d a b c : RegIdx} (h : s.natF c % s.prime = 0) :
    exec (.psetj d a b c) s = .next ((s.writePoint d .inf).complete .ok) :=
  if_pos h

theorem exec_psetj_jac {d a b c : RegIdx} (h : s.natF c % s.prime ≠ 0) :
    exec (.psetj d a b c) s = .next ((s.writePoint d
      (.jac (s.natF a % s.prime) (s.natF b % s.prime) (s.natF c % s.prime))).complete .ok) :=
  if_neg h

/-- The scratch that PSMUL computes is erased again: only its accumulator is written (R32, R98). -/
theorem exec_psmul (d a b : RegIdx) (s : State) :
    exec (.psmul d a b) s = .next (s.finishPoint d
      ((s.scratch.multiply s.config (s.pointOf a) (s.natF b)).map Scratch.acc)) := by
  simp only [exec, execPsmul]
  split
  · next h => rw [h]; rfl
  · next h => rw [h]; rfl

/-- The accumulator does not depend on what the scratch held (R32). -/
theorem multiply_acc_eq (x y : Scratch) (cfg : Config) (v : Point) (k : Nat) :
    (x.multiply cfg v k).map Scratch.acc = (y.multiply cfg v k).map Scratch.acc := by
  simp only [Scratch.multiply, Scratch.buildTable, Scratch.encode, Scratch.runLoop]
  by_cases h : 1 < 2 ^ (cfg.wnafW - 2)
  · simp only [if_pos h]
    cases pointDbl cfg.curve (pointToJac v) with
    | none => rfl
    | some d2 =>
      simp only
      cases tableFrom cfg.curve d2 (2 ^ (cfg.wnafW - 2) - 1) (pointToJac v) with
      | none => rfl
      | some ts => cases multiplyLoop cfg.curve ts (wnafDigits cfg.wnafW cfg.wnafL k) <;> rfl
  · simp only [if_neg h]
    cases multiplyLoop cfg.curve [pointToJac v] (wnafDigits cfg.wnafW cfg.wnafL k) <;> rfl

/-- PSMUL's result meets R24 on valid points (R77, R98). -/
theorem multiply_acc_ok (hc : s.config.Valid) (hp : s.PointsOk) (a : RegIdx) (k : Nat) :
    ∃ q, (s.scratch.multiply s.config (s.pointOf a) k).map Scratch.acc = some q ∧ q.Ok s.prime := by
  obtain ⟨x, hx, hok⟩ := multiply_closed (closed_ok hc.1) s.scratch (pointToJac_ok hc.1 (pointOf_ok hp a)) k
  exact ⟨x.acc, by rw [hx]; rfl, hok⟩

/-- `e` is what command `i` does in `s`, and in every state with the constants, F and PT of `s`; it keeps R24 and R30
on valid points. -/
structure HasEffect (i : Instr) (s : State) (e : Effect) : Prop where
  exec_eq : exec i s = .next (s.perform e)
  exec_withInputs : ∀ u : State, exec i (u.withInputs s) = .next ((u.withInputs s).perform e)
  ok : s.config.Valid → s.PointsOk → e.Ok s.prime

/-- A command that ends in what a point function answers. -/
theorem hasEffect_ofPoint {i : Instr} {d : RegIdx} {v : Option Point} (h : exec i s = .next (s.finishPoint d v))
    (hu : ∀ u : State, exec i (u.withInputs s) = .next ((u.withInputs s).finishPoint d v))
    (hv : s.config.Valid → s.PointsOk → ∃ q, v = some q ∧ q.Ok s.prime) : HasEffect i s (.ofPoint d v) :=
  ⟨by rw [h, perform_ofPoint], fun u => by rw [hu u, perform_ofPoint], fun hc hp => ofPoint_ok hc.1 (hv hc hp)⟩

/-- Every command has one effect, which hidden state does not change (R20, R31, R32, R103). -/
theorem exec_hasEffect (i : Instr) (s : State) : ∃ e, HasEffect i s e := by
  have hmod : ∀ (hc : s.config.Valid) (x : Nat), x % s.prime < s.prime := fun hc x => Nat.mod_lt x hc.1.1.pos
  cases i with
  | nop => exact ⟨.nothing .ok, rfl, fun _ => rfl, fun _ _ => trivial⟩
  | fadd d a b m => exact ⟨.field d _, rfl, fun _ => rfl, fun _ _ => trivial⟩
  | fsub d a b m => exact ⟨.field d _, rfl, fun _ => rfl, fun _ _ => trivial⟩
  | fmul d a b m => exact ⟨.field d _, rfl, fun _ => rfl, fun _ _ => trivial⟩
  | finv d a m =>
    cases h : invMod (s.modulus m) (s.natF a) with
    | none => exact ⟨.nothing .noinv, exec_finv_none h, fun _ => exec_finv_none h, fun _ _ => trivial⟩
    | some v => exact ⟨.field d _, exec_finv_some h, fun _ => exec_finv_some h, fun _ _ => trivial⟩
  | fexp d a b m => exact ⟨.field d _, rfl, fun _ => rfl, fun _ _ => trivial⟩
  | fcmp a b => exact ⟨.cmp _, rfl, fun _ => rfl, fun _ _ => compareBits_ne_two _ _⟩
  | fisz a => exact ⟨.zf _, rfl, fun _ => rfl, fun _ _ => trivial⟩
  | ftbit a i => exact ⟨.bitf _, rfl, fun _ => rfl, fun _ _ => trivial⟩
  | fmov d a => exact ⟨.field d _, rfl, fun _ => rfl, fun _ _ => trivial⟩
  | fldc d i =>
    cases h : curveConst s.config.curve i.toNat with
    | none => exact ⟨.nothing .illegal, exec_fldc_none h, fun _ => exec_fldc_none h, fun _ _ => trivial⟩
    | some v => exact ⟨.field d v, exec_fldc_some h, fun _ => exec_fldc_some h, fun _ _ => trivial⟩
  | pseti d => exact ⟨.point d _, rfl, fun _ => rfl, fun hc _ => identity_ok hc.1.1.pos⟩
  | pseta d a b =>
    exact ⟨.point d _, rfl, fun _ => rfl, fun hc _ => reg_ok_of_curve hc.1 ⟨hmod hc _, hmod hc _⟩⟩
  | psetj d a b c =>
    by_cases h : s.natF c % s.prime = 0
    · exact ⟨.point d _, exec_psetj_inf h, fun _ => exec_psetj_inf h, fun hc _ => identity_ok hc.1.1.pos⟩
    · exact ⟨.point d _, exec_psetj_jac h, fun _ => exec_psetj_jac h,
        fun hc _ => reg_ok_of_curve hc.1 ⟨hmod hc _, hmod hc _, hmod hc _, h⟩⟩
  | psetg d =>
    refine ⟨.point d _, rfl, fun _ => rfl, fun hc _ => reg_ok_of_curve hc.1 ?_⟩
    obtain ⟨-, -, -, -, -, -, hgx, hgy⟩ := hc.1
    exact ⟨hgx, hgy⟩
  | pgetx d a => exact ⟨.field d _, rfl, fun _ => rfl, fun _ _ => trivial⟩
  | pgety d a => exact ⟨.field d _, rfl, fun _ => rfl, fun _ _ => trivial⟩
  | pgetz d a => exact ⟨.field d _, rfl, fun _ => rfl, fun _ _ => trivial⟩
  | pmov d a => exact ⟨.point d _, rfl, fun _ => rfl, fun _ hp => hp a⟩
  | pneg d a =>
    exact ⟨.point d _, rfl, fun _ => rfl, fun hc hp => reg_ok_of_curve hc.1 (pointNeg_ok hc.1 (pointOf_ok hp a))⟩
  | pdbl d a =>
    exact ⟨_, hasEffect_ofPoint (exec_pdbl d a s) (fun _ => rfl) fun hc hp => pointDbl_ok hc.1 (pointOf_ok hp a)⟩
  | padd d a b =>
    exact ⟨_, hasEffect_ofPoint (exec_padd d a b s) (fun _ => rfl)
      fun hc hp => pointAdd_ok hc.1 (pointOf_ok hp a) (pointOf_ok hp b)⟩
  | ponc a => exact ⟨.onc _, rfl, fun _ => rfl, fun _ _ => trivial⟩
  | paff d a =>
    exact ⟨_, hasEffect_ofPoint (exec_paff d a s) (fun _ => rfl) fun hc hp => pointToAff_ok hc.1 (pointOf_ok hp a)⟩
  | pjac d a =>
    exact ⟨.point d _, rfl, fun _ => rfl, fun hc hp => reg_ok_of_curve hc.1 (pointToJac_ok hc.1 (pointOf_ok hp a))⟩
  | psmul d a b =>
    refine ⟨_, hasEffect_ofPoint (exec_psmul d a b s) (fun u => ?_) fun hc hp => multiply_acc_ok hc hp a _⟩
    rw [exec_psmul, multiply_acc_eq _ s.scratch]
    rfl
  | zero => exact ⟨.erase, rfl, fun _ => rfl, fun _ _ => trivial⟩

/-! The engine's completion step and what every effect leaves -/

/-- A completion step has one effect, which keeps R24 and R30 on valid points (R103). -/
theorem completeLatched_effect (s : State) :
    ∃ e : Effect, completeLatched s = .next (s.perform e) ∧ (s.config.Valid → s.PointsOk → e.Ok s.prime) := by
  simp only [completeLatched]
  cases decode s.cl with
  | error _ => exact ⟨.nothing .illegal, rfl, fun _ _ => trivial⟩
  | ok i =>
    obtain ⟨e, he⟩ := exec_hasEffect i s
    exact ⟨e, he.exec_eq, he.ok⟩

/-- Every effect ends in a completion (R103). -/
theorem perform_completes (s : State) (e : Effect) : ∃ code, Completes s (s.perform e) code := by
  cases e with
  | nothing code => exact ⟨code, by simp [State.perform, Completes]⟩
  | _ => exact ⟨.ok, by simp [State.perform, Completes]⟩

theorem perform_pointsOk {e : Effect} (hc : s.config.Valid) (hp : s.PointsOk) (he : e.Ok s.prime) :
    (s.perform e).PointsOk := by
  cases e with
  | point d r =>
    intro q
    by_cases hq : q = d
    · subst hq
      simpa [State.perform, Effect.Ok] using he
    · simpa [State.perform, readPt_writePt_ne s hq] using hp q
  | erase =>
    intro q
    simpa [State.perform] using identity_ok (p := s.prime) hc.1.1.pos
  | _ => exact hp

theorem perform_cmp_ne_two {e : Effect} (h : s.cmp ≠ 0b10#2) (he : e.Ok s.prime) : (s.perform e).cmp ≠ 0b10#2 := by
  cases e with
  | cmp v => exact he
  | erase => simp [State.perform]
  | _ => exact h

theorem perform_sameResults (e : Effect) (hf : u.f = s.f) (hp : u.pt = s.pt) (hfl : SameFlags s u) :
    (u.perform e).f = (s.perform e).f ∧ (u.perform e).pt = (s.perform e).pt ∧
      SameFlags (s.perform e) (u.perform e) ∧ (u.perform e).err = (s.perform e).err := by
  obtain ⟨hcmp, hzf, hbitf, honc⟩ := hfl
  cases e <;> simp [State.perform, SameFlags, *]

/-- Settles O30: both states perform the same effect, which is computed from what they share. -/
theorem resultsIgnoreHiddenState : Obligations.ResultsIgnoreHiddenState := by
  intro i s u hc hf hp hfl
  obtain ⟨e, he⟩ := exec_hasEffect i s
  have hu := he.exec_withInputs u
  rw [withInputs_eq_self hc hf hp] at hu
  exact ⟨_, _, he.exec_eq, hu, perform_sameResults e hf hp hfl⟩

end Sys2Proof.Machine
end

section
/-! PROOF. The invariant holds at reset and every step keeps it. -/

namespace Sys2Proof.Machine

open Sys2Proof

variable {s t : State}

theorem completion_bits_le_two (code : Completion) : code.bits.toNat ≤ 2 := by
  cases code <;> decide

/-- A block with an accepted configuration meets the invariant right after reset (R24, R120). -/
theorem inv_resetOf {c : Config} (hc : c.Valid) : (State.resetOf c).Inv := by
  have hpts : (State.resetOf c).PointsOk := by
    intro r
    rw [resetOf_readPt]
    exact identity_ok hc.1.1.pos
  exact ⟨hc, hpts, by simp [State.resetOf], by simp [State.resetOf], rfl, nofun⟩

theorem inv_resetBlock (h : s.Inv) : s.resetBlock.Inv :=
  inv_resetOf h.1

theorem inv_start (h : s.Inv) : s.start.Inv := by
  obtain ⟨hcfg, hpts, hcmp, -, hscr, -⟩ := h
  exact ⟨hcfg, hpts, hcmp, by simp, hscr, fun _ => ⟨rfl, rfl, rfl⟩⟩

/-- A completion step keeps the invariant and leaves the engine idle. -/
theorem inv_perform {e : Effect} (h : s.Inv) (he : e.Ok s.prime) : (s.perform e).Inv := by
  obtain ⟨hcfg, hpts, hcmp, -, -, -⟩ := h
  obtain ⟨code, herr, hbusy, -, hscr, hconfig, -⟩ := perform_completes s e
  refine ⟨hconfig ▸ hcfg, perform_pointsOk hcfg hpts he, perform_cmp_ne_two hcmp he, ?_, hconfig ▸ hscr, ?_⟩
  · exact herr ▸ completion_bits_le_two code
  · exact fun hb => absurd hb (by simp [hbusy])

theorem inv_writeCtrl (h : s.Inv) (v : Word) : (s.writeCtrl v).Inv := by
  simp only [State.writeCtrl]
  have ht : ({ s with irqen := v.getLsbD 1 } : State).Inv := h
  split
  · split
    · exact h
    · exact inv_start ht
  · exact ht

theorem inv_writeStatus (h : s.Inv) (v : Word) : (s.writeStatus v).Inv := by
  obtain ⟨hcfg, hpts, hcmp, herr, hscr, hrun⟩ := h
  refine ⟨hcfg, hpts, hcmp, herr, hscr, fun hb => ?_⟩
  obtain ⟨hdone, hrest⟩ := hrun hb
  exact ⟨by simp [State.writeStatus, hdone], hrest⟩

theorem inv_writeCmd (h : s.Inv) (v : Word) : (s.writeCmd v).Inv := by
  unfold State.writeCmd
  split
  · exact h
  · next hb =>
    obtain ⟨hcfg, hpts, hcmp, herr, hscr, -⟩ := h
    exact ⟨hcfg, hpts, hcmp, herr, hscr, fun hb' => absurd hb' hb⟩

theorem inv_writeFWord (h : s.Inv) (i : Fin 16) (j : Fin 8) (v : Word) : (s.writeFWord i j v).Inv := by
  unfold State.writeFWord
  split
  · exact h
  · exact h

theorem inv_writeLoc (h : s.Inv) (l : Loc) (v : Word) : (s.writeLoc l v).Inv := by
  cases l with
  | ctrl => exact inv_writeCtrl h v
  | status => exact inv_writeStatus h v
  | cmd => exact inv_writeCmd h v
  | fWord i j => exact inv_writeFWord h i j v
  | _ => exact h

theorem inv_engineTurn (h : s.Inv) (ht : engineTurn s = .next t) : t.Inv := by
  have ⟨hcfg, hpts, _⟩ := h
  unfold engineTurn at ht
  split at ht
  · obtain ⟨e, he, hok⟩ := completeLatched_effect s
    rw [he] at ht
    cases ht
    exact inv_perform h (hok hcfg hpts)
  · cases ht
    exact h

theorem inv_hostRead {off : Offset} {size : Nat} (h : s.Inv) (ht : hostRead off size s = .next t) : t.Inv := by
  unfold hostRead at ht
  split at ht
  · cases ht
    exact h
  · cases ht

theorem inv_hostWrite {off : Offset} {size : Nat} {v : Word} (h : s.Inv) (ht : hostWrite off size v s = .next t) :
    t.Inv := by
  unfold hostWrite at ht
  split at ht
  · cases ht
    exact inv_writeLoc h _ v
  · cases ht

theorem inv_deliver {e : Event} (h : s.Inv) (ht : deliver e s = .next t) : t.Inv := by
  cases e with
  | engine => exact inv_engineTurn h ht
  | reset =>
    cases ht
    exact inv_resetBlock h
  | read off size => exact inv_hostRead h ht
  | write off size v => exact inv_hostWrite h ht

/-- Settles O15, by the event that the step delivers; the sequence of events is no part of the invariant. -/
theorem invariantKeptByEveryStep : Obligations.InvariantKeptByEveryStep := by
  intro s t h ht
  have h' : ({ s with events := (nextEvent s).2 } : State).Inv := h
  exact inv_deliver h' ht

/-- Settles O16: this hardware's configuration is accepted. -/
theorem invariantHoldsAtReset : Obligations.InvariantHoldsAtReset :=
  inv_resetOf hardware_valid

end Sys2Proof.Machine
end

section
/-! PROOF. The register map: which location each offset of the window is, and what it reads as (R36, R38). -/

namespace Sys2Proof.Machine

open Sys2Proof

/-! The register map -/

theorem locateNat_fWord (i : Fin 16) (j : Fin 8) : locateNat (0x100 + 0x20 * i.val + 4 * j.val) = .fWord i j := by
  have hi : (0x100 + 0x20 * i.val + 4 * j.val - 0x100) / 0x20 = i.val := by omega
  have hj : (0x100 + 0x20 * i.val + 4 * j.val) % 0x20 / 4 = j.val := by omega
  rw [locateNat, if_neg (by omega), if_pos (by omega), hi, hj, Fin.ofNat_val_eq_self, Fin.ofNat_val_eq_self]

/-- The 128 bytes of a point register: X, Y, Z, the tag, and 28 reserved bytes. -/
theorem locateNat_pt (i : Fin 16) {r : Nat} (hr : r < 0x80) : locateNat (0x400 + 0x80 * i.val + r) =
    if r < 0x20 then .ptX i (Fin.ofNat 8 (r % 0x20 / 4))
    else if r < 0x40 then .ptY i (Fin.ofNat 8 (r % 0x20 / 4))
    else if r < 0x60 then .ptZ i (Fin.ofNat 8 (r % 0x20 / 4))
    else if r = 0x60 then .ptTag i
    else .reserved := by
  have hi : (0x400 + 0x80 * i.val + r - 0x400) / 0x80 = i.val := by omega
  have hm : (0x400 + 0x80 * i.val + r) % 0x80 = r := by omega
  have hj : (0x400 + 0x80 * i.val + r) % 0x20 = r % 0x20 := by omega
  rw [locateNat, if_neg (by omega), if_neg (by omega), if_neg (by omega), if_pos (by omega), hi, hm, hj,
    Fin.ofNat_val_eq_self]

theorem locateNat_ptX (i : Fin 16) (j : Fin 8) : locateNat (0x400 + 0x80 * i.val + 4 * j.val) = .ptX i j := by
  have hj : 4 * j.val % 0x20 / 4 = j.val := by omega
  rw [locateNat_pt i (by omega), if_pos (by omega), hj, Fin.ofNat_val_eq_self]

theorem locateNat_ptY (i : Fin 16) (j : Fin 8) : locateNat (0x420 + 0x80 * i.val + 4 * j.val) = .ptY i j := by
  have ho : 0x420 + 0x80 * i.val + 4 * j.val = 0x400 + 0x80 * i.val + (0x20 + 4 * j.val) := by omega
  have hj : (0x20 + 4 * j.val) % 0x20 / 4 = j.val := by omega
  rw [ho, locateNat_pt i (by omega), if_neg (by omega), if_pos (by omega), hj, Fin.ofNat_val_eq_self]

theorem locateNat_ptZ (i : Fin 16) (j : Fin 8) : locateNat (0x440 + 0x80 * i.val + 4 * j.val) = .ptZ i j := by
  have ho : 0x440 + 0x80 * i.val + 4 * j.val = 0x400 + 0x80 * i.val + (0x40 + 4 * j.val) := by omega
  have hj : (0x40 + 4 * j.val) % 0x20 / 4 = j.val := by omega
  rw [ho, locateNat_pt i (by omega), if_neg (by omega), if_neg (by omega), if_pos (by omega), hj,
    Fin.ofNat_val_eq_self]

theorem locateNat_ptTag (i : Fin 16) : locateNat (0x460 + 0x80 * i.val) = .ptTag i := by
  have ho : 0x460 + 0x80 * i.val = 0x400 + 0x80 * i.val + 0x60 := by omega
  rw [ho, locateNat_pt i (by omega)]
  rfl

theorem locateNat_constWord (c : Fin 7) (j : Fin 8) :
    locateNat (0xC00 + 0x20 * c.val + 4 * j.val) = .constWord c j := by
  have hc : (0xC00 + 0x20 * c.val + 4 * j.val - 0xC00) / 0x20 = c.val := by omega
  have hj : (0xC00 + 0x20 * c.val + 4 * j.val) % 0x20 / 4 = j.val := by omega
  rw [locateNat, if_neg (by omega), if_neg (by omega), if_neg (by omega), if_neg (by omega), if_pos (by omega), hc, hj,
    Fin.ofNat_val_eq_self, Fin.ofNat_val_eq_self]

/-- The four ranges of reserved offsets (R36, R41). -/
theorem locateNat_reserved {o : Nat}
    (h : (0x014 ≤ o ∧ o < 0x100) ∨ (0x300 ≤ o ∧ o < 0x400) ∨ (0x400 ≤ o ∧ o < 0xC00 ∧ 0x64 ≤ o % 0x80) ∨ 0xCE0 ≤ o) :
    locateNat o = .reserved := by
  obtain ⟨h1, h2⟩ | ⟨h1, h2⟩ | ⟨h1, h2, h3⟩ | h1 := h
  · rw [locateNat, if_pos (by omega), if_neg (by omega), if_neg (by omega), if_neg (by omega), if_neg (by omega),
      if_neg (by omega)]
  · rw [locateNat, if_neg (by omega), if_neg (by omega), if_pos (by omega)]
  · rw [locateNat, if_neg (by omega), if_neg (by omega), if_neg (by omega), if_pos (by omega), if_neg (by omega),
      if_neg (by omega), if_neg (by omega), if_neg (by omega)]
  · rw [locateNat, if_neg (by omega), if_neg (by omega), if_neg (by omega), if_neg (by omega), if_neg (by omega)]

variable (s : State)

/-! What the locations read as -/

theorem readWindow_ofNat {n : Nat} {l : Loc} (hn : n < 0x1000) (hl : locateNat n = l) :
    s.readWindow (BitVec.ofNat 12 n) = s.readLoc l := by
  rw [State.readWindow, locate, BitVec.toNat_ofNat, Nat.mod_eq_of_lt hn, hl]

theorem readWindow_constWord (c : Fin 7) (j : Fin 8) {v : Value} (h : curveConst s.config.curve c.val = some v) :
    s.readWindow (BitVec.ofNat 12 (0xC00 + 0x20 * c.val + 4 * j.val)) = v.extractLsb' (32 * j.val) 32 := by
  rw [readWindow_ofNat s (by omega) (locateNat_constWord c j), State.readLoc, h]
  rfl

theorem readLoc_ptTag (i : RegIdx) : s.readLoc (.ptTag i.toFin) =
    match (s.readPt i).tag with
    | .aff => 0#32
    | .jac => 1#32
    | .inf => 2#32 := by
  have h : s.pt[i.toFin.val] = s.readPt i := rfl
  rw [State.readLoc, h]
  cases (s.readPt i).tag <;> rfl

/-- Settles O18, by the location of each offset. -/
theorem windowReads : Obligations.WindowReads := by
  intro s
  refine ⟨rfl, rfl, rfl, rfl, rfl, fun i j => ?regs, fun i => ?tag, fun j => ?consts, fun off _ h => ?reserved⟩
  case regs =>
    have hi := i.toFin.isLt
    exact ⟨readWindow_ofNat s (by omega) (locateNat_fWord i.toFin j),
      readWindow_ofNat s (by omega) (locateNat_ptX i.toFin j),
      readWindow_ofNat s (by omega) (locateNat_ptY i.toFin j),
      readWindow_ofNat s (by omega) (locateNat_ptZ i.toFin j)⟩
  case tag =>
    have hi := i.toFin.isLt
    exact (readWindow_ofNat s (by omega) (locateNat_ptTag i.toFin)).trans (readLoc_ptTag s i)
  case consts =>
    exact ⟨readWindow_constWord s 0 j rfl, readWindow_constWord s 1 j rfl, readWindow_constWord s 2 j rfl,
      readWindow_constWord s 3 j rfl, readWindow_constWord s 4 j rfl, readWindow_constWord s 5 j rfl,
      readWindow_constWord s 6 j rfl⟩
  case reserved => rw [State.readWindow, locate, locateNat_reserved h, State.readLoc]

/-! The fields of CTRL and STATUS (R27, R28) -/

theorem ctrlWord_eq : s.ctrlWord = if s.irqen then 2#32 else 0#32 := by
  rw [State.ctrlWord]
  cases s.irqen <;> rfl

theorem getLsbD_ctrlWord_zero : s.ctrlWord.getLsbD 0 = false := by
  rw [ctrlWord_eq]
  cases s.irqen <;> rfl

theorem getLsbD_ctrlWord_one : s.ctrlWord.getLsbD 1 = s.irqen := by
  rw [ctrlWord_eq]
  cases s.irqen <;> rfl

theorem getLsbD_statusWord {k : Nat} (hk : k < 32) : s.statusWord.getLsbD k =
    if k = 0 then s.busy else if k = 1 then s.done else if k = 2 then s.werr else if k = 3 then false
    else if k < 8 then s.err.getLsbD (k - 4) else if k < 10 then s.cmp.getLsbD (k - 8)
    else if k = 10 then s.zf else if k = 11 then s.bitf else if k = 12 then s.onc else false := by
  simp only [State.statusWord, BitVec.getLsbD_append, BitVec.getLsbD_ofBool]
  interval_cases k <;> rfl

theorem extractLsb'_statusWord_err : s.statusWord.extractLsb' 4 4 = s.err := by
  refine BitVec.eq_of_getLsbD_eq fun k hk => ?_
  rw [BitVec.getLsbD_extractLsb', getLsbD_statusWord s (by omega)]
  interval_cases k <;> rfl

theorem extractLsb'_statusWord_cmp : s.statusWord.extractLsb' 8 2 = s.cmp := by
  refine BitVec.eq_of_getLsbD_eq fun k hk => ?_
  rw [BitVec.getLsbD_extractLsb', getLsbD_statusWord s (by omega)]
  interval_cases k <;> rfl

theorem extractLsb'_statusWord_reserved : s.statusWord.extractLsb' 13 19 = 0#19 := by
  refine BitVec.eq_of_getLsbD_eq fun k hk => ?_
  rw [BitVec.getLsbD_extractLsb', getLsbD_statusWord s (by omega)]
  interval_cases k <;> rfl

theorem extractLsb'_ctrlWord_reserved : s.ctrlWord.extractLsb' 2 30 = 0#30 := by
  rw [ctrlWord_eq]
  cases s.irqen <;> rfl

/-- Settles O19, field by field. -/
theorem controlAndStatusLayout : Obligations.ControlAndStatusLayout := by
  intro s
  have hstatus (k : Nat) (hk : k < 32) := getLsbD_statusWord s hk
  exact ⟨hstatus 0 (by decide), hstatus 1 (by decide), hstatus 2 (by decide), hstatus 3 (by decide),
    extractLsb'_statusWord_err s, extractLsb'_statusWord_cmp s, hstatus 10 (by decide), hstatus 11 (by decide),
    hstatus 12 (by decide), extractLsb'_statusWord_reserved s, getLsbD_ctrlWord_zero s,
    getLsbD_ctrlWord_one s, extractLsb'_ctrlWord_reserved s⟩

end Sys2Proof.Machine
end

section
/-! PROOF. The reset state, the engine's idle turn, and the host's writes to CTRL, STATUS and CMD as steps. -/

namespace Sys2Proof.Machine

open Sys2Proof

variable {s : State} {es : List Event} {v : Word}

/-- Settles O10. -/
theorem idleEngineTurnChangesNothing : Obligations.IdleEngineTurnChangesNothing := by
  intro s es hb hn
  simp only [step, hn, deliver, engineTurn, hb]
  rfl

/-- A write of four bytes at a multiple of 4 has a step (R37). -/
theorem step_write {off : Offset} (hev : s.events = .write off 4 v :: es) (hoff : off.toNat % 4 = 0) :
    step s = .next ({ s with events := es }.writeWindow off v) := by
  have hn : nextEvent s = (.write off 4 v, es) := by rw [nextEvent, hev]
  have ha : admitted off 4 = true := by simp [admitted, hoff]
  simp only [step, hn, deliver, hostWrite, ha, if_true]

/-- The write of CTRL without START (R27). -/
theorem writeCtrl_of_not_start (h : v.getLsbD 0 = false) : s.writeCtrl v = { s with irqen := v.getLsbD 1 } := by
  simp only [State.writeCtrl, h, Bool.false_eq_true, if_false]

/-- The accepted START (R102). -/
theorem writeCtrl_of_idle (h : v.getLsbD 0 = true) (hb : s.busy = false) :
    s.writeCtrl v = { s.start with irqen := v.getLsbD 1 } := by
  simp only [State.writeCtrl, h, hb, Bool.false_eq_true, if_true, if_false, State.start]

/-- The refused START (R42). -/
theorem writeCtrl_of_busy (h : v.getLsbD 0 = true) (hb : s.busy = true) :
    s.writeCtrl v = { s with werr := true, irqen := v.getLsbD 1 } := by
  simp only [State.writeCtrl, h, hb, if_true]

theorem writeStatus_eq (s : State) (v : Word) : s.writeStatus v = { s with
    done := if v.getLsbD 1 then false else s.done
    werr := if v.getLsbD 2 then false else s.werr } := by
  have hclear (b c : Bool) : (b && !c) = if c then false else b := by cases c <;> simp
  simp only [State.writeStatus, hclear]

theorem writeCmd_of_idle (hb : s.busy = false) (v : Word) : s.writeCmd v = { s with cmd := v } := by
  simp [State.writeCmd, hb]

/-- Settles O12. -/
theorem startLatchesCommand : Obligations.StartLatchesCommand := by
  refine ⟨fun s es v hev => ?writes, fun s => ctrlWord_eq s, ctrlWord_eq State.reset, fun s => ?irq⟩
  case writes =>
    have hstep : step s = .next ({ s with events := es }.writeCtrl v) := step_write hev (by decide)
    rw [hstep]
    exact ⟨fun h hb => congrArg _ (writeCtrl_of_idle h hb), fun h hb => congrArg _ (writeCtrl_of_busy h hb),
      fun h => congrArg _ (writeCtrl_of_not_start h)⟩
  case irq =>
    rw [State.irq]
    cases s.irqen <;> simp

/-- Settles O20. -/
theorem statusWriteClearsDoneAndWerr : Obligations.StatusWriteClearsDoneAndWerr := by
  intro s es v hev
  have hstep : step s = .next ({ s with events := es }.writeStatus v) := step_write hev (by decide)
  rw [hstep, writeStatus_eq]

/-- Settles O22. -/
theorem commandWriteWhileIdle : Obligations.CommandWriteWhileIdle := by
  intro s es v hb hev
  have hstep : step s = .next ({ s with events := es }.writeCmd v) := step_write hev (by decide)
  rw [hstep, writeCmd_of_idle (s := { s with events := es }) hb]

/-- The block is clean-idle right after reset (R122). -/
theorem cleanIdle_resetOf (c : Config) : (State.resetOf c).CleanIdle :=
  ⟨rfl, rfl, rfl, rfl, resetOf_readF c, resetOf_readPt c, rfl, rfl, rfl, rfl⟩

/-- Settles O13, component by component. -/
theorem resetValues : Obligations.ResetValues := by
  have hdigits : ∀ d ∈ (Scratch.cleared .hardware).digits, d = 0 := fun d hd => List.eq_of_mem_replicate hd
  have htable : ∀ v ∈ (Scratch.cleared .hardware).table, v = .aff 0 0 := fun v hv => List.eq_of_mem_replicate hv
  exact ⟨resetOf_readF .hardware, resetOf_readPt .hardware, rfl, rfl, rfl, rfl, rfl, rfl, rfl, rfl, rfl, rfl, rfl, rfl,
    rfl, hdigits, rfl, rfl, htable, rfl, rfl, rfl, cleanIdle_resetOf .hardware, rfl, rfl⟩

end Sys2Proof.Machine
end

section
/-! PROOF. Which accesses of the host window have a step, and what the block refuses or ignores (R37, R39, R41, R42). -/

namespace Sys2Proof.Machine

open Sys2Proof

variable {s t : State} {es : List Event} {off : Offset} {size o : Nat} {v w : Word}

/-! The admitted accesses (R37) -/

theorem step_of_events {e : Event} (hev : s.events = e :: es) : step s = deliver e { s with events := es } := by
  have hn : nextEvent s = (e, es) := by rw [nextEvent, hev]
  rw [step, hn]

theorem admitted_iff : admitted off size = true ↔ size = 4 ∧ off.toNat % 4 = 0 := by
  simp [admitted]

theorem hostRead_eq (off : Offset) (size : Nat) (s : State) : hostRead off size s =
    if size = 4 ∧ off.toNat % 4 = 0 then .next { s with reply := some (s.readWindow off) }
    else .fault (.busRefused off size) := by
  simp only [hostRead, admitted_iff]

theorem hostWrite_eq (off : Offset) (size : Nat) (v : Word) (s : State) : hostWrite off size v s =
    if size = 4 ∧ off.toNat % 4 = 0 then .next (s.writeWindow off v) else .fault (.busRefused off size) := by
  simp only [hostWrite, admitted_iff]

/-- What the window reads as does not depend on the accesses still pending. -/
theorem readWindow_withEvents (s : State) (es : List Event) (off : Offset) :
    ({ s with events := es } : State).readWindow off = s.readWindow off := by
  simp only [State.readWindow]
  cases locate off <;> rfl

/-- Settles O17, by the two forms of access. -/
theorem onlyAlignedWordAccessesStep : Obligations.OnlyAlignedWordAccessesStep := by
  refine fun s es off size v => ⟨fun hev => ?read, fun hev => ?write⟩
  case read =>
    rw [step_of_events hev, deliver, hostRead_eq, readWindow_withEvents]
    split <;> rfl
  case write =>
    rw [step_of_events hev, deliver, hostWrite_eq]
    split <;> rfl

/-! The writable locations of the register map (R36) -/

/-- The locations whose host writes are not ignored (R27, R28, R29, R39). -/
def Loc.writable : Loc → Bool
  | .ctrl => true
  | .status => true
  | .cmd => true
  | .fWord _ _ => true
  | _ => false

theorem writeLoc_of_not_writable {l : Loc} (h : l.writable = false) (s : State) (v : Word) : s.writeLoc l v = s := by
  cases l with
  | ctrl => cases h
  | status => cases h
  | cmd => cases h
  | fWord i j => cases h
  | _ => rfl

theorem locateNat_of_fFile (h : 0x100 ≤ o ∧ o < 0x300) :
    locateNat o = .fWord (Fin.ofNat 16 ((o - 0x100) / 0x20)) (Fin.ofNat 8 (o % 0x20 / 4)) := by
  rw [locateNat, if_neg (by omega), if_pos (by omega)]

/-- Outside CTRL, STATUS, CMD and the field registers no location is writable (R36, R41). -/
theorem locateNat_not_writable (h : o = 0x000 ∨ (0x010 ≤ o ∧ o < 0x100) ∨ 0x300 ≤ o) :
    (locateNat o).writable = false := by
  unfold locateNat
  split
  · split
    · rfl
    · rw [if_neg (by omega), if_neg (by omega), if_neg (by omega)]
      split <;> rfl
  · rw [if_neg (by omega)]
    repeat' split
    all_goals rfl

theorem writeWindow_ignored (h : off.toNat = 0x000 ∨ (0x010 ≤ off.toNat ∧ off.toNat < 0x100) ∨ 0x300 ≤ off.toNat)
    (s : State) (v : Word) : s.writeWindow off v = s :=
  writeLoc_of_not_writable (locateNat_not_writable h) s v

/-- STATUS stands at one offset alone (R36). -/
theorem locateNat_eq_status (h : locateNat o = .status) : o = 0x008 := by
  unfold locateNat at h
  split_ifs at h
  assumption

/-! The words of F (R39, R42) -/

/-- The accepted write of a word of F (R39). -/
theorem writeFWord_of_idle (hb : s.busy = false) (i : RegIdx) (j : Fin 8) (v : Word) :
    s.writeFWord i.toFin j v = s.writeF i (setWord (s.readF i) j v) := by
  rw [State.writeFWord, if_neg (by simp [hb])]
  rfl

theorem writeFWord_of_busy (hb : s.busy = true) (i : Fin 16) (j : Fin 8) (v : Word) :
    s.writeFWord i j v = { s with werr := true } := by
  rw [State.writeFWord, if_pos hb]

theorem writeCmd_of_busy (hb : s.busy = true) (v : Word) : s.writeCmd v = { s with werr := true } := by
  rw [State.writeCmd, if_pos hb]

/-- The offset of word `j` of `F[i]` (R36). -/
theorem locate_fWord (i : RegIdx) (j : Fin 8) :
    locate (BitVec.ofNat 12 (0x100 + 0x20 * i.toNat + 4 * j.val)) = .fWord i.toFin j := by
  have hi := i.isLt
  rw [locate, BitVec.toNat_ofNat, Nat.mod_eq_of_lt (by omega)]
  exact locateNat_fWord i.toFin j

theorem readWindow_fWord (s : State) (i : RegIdx) (j : Fin 8) :
    s.readWindow (BitVec.ofNat 12 (0x100 + 0x20 * i.toNat + 4 * j.val)) = getWord (s.readF i) j := by
  rw [State.readWindow, locate_fWord]
  rfl

/-- Settles O21: the register's new value is the old one with word `j` replaced. -/
theorem fieldWordWriteWhileIdle : Obligations.FieldWordWriteWhileIdle := by
  intro s es i j v hb hev
  have hi := i.isLt
  have haligned : (BitVec.ofNat 12 (0x100 + 0x20 * i.toNat + 4 * j.val)).toNat % 4 = 0 := by
    rw [BitVec.toNat_ofNat]
    omega
  refine ⟨setWord (s.readF i) j v, ?step, getLsbD_setWord (s.readF i) j v, ?readBack⟩
  case step =>
    rw [step_write hev haligned, State.writeWindow, locate_fWord]
    exact congrArg _ (writeFWord_of_idle (s := { s with events := es }) hb i j v)
  case readBack => rw [readWindow_fWord, readF_writeF_self, getWord_setWord_self]

/-! How WERR stays (R42) -/

theorem writeCtrl_werr (hw : s.werr = true) (v : Word) : (s.writeCtrl v).werr = true := by
  unfold State.writeCtrl
  split
  · split
    · rfl
    · exact hw
  · exact hw

/-- No host write but one to STATUS clears WERR. -/
theorem writeLoc_werr {l : Loc} (hw : s.werr = true) (hl : l ≠ .status) (v : Word) :
    (s.writeLoc l v).werr = true := by
  cases l with
  | ctrl => exact writeCtrl_werr hw v
  | status => exact absurd rfl hl
  | cmd =>
    rw [State.writeLoc, State.writeCmd]
    split
    · rfl
    · exact hw
  | fWord i j =>
    rw [State.writeLoc, State.writeFWord]
    split
    · rfl
    · exact hw
  | _ => exact hw

theorem writeWindow_werr (hw : s.werr = true) (off : Offset) (v : Word) :
    (s.writeWindow off v).werr = true ∨ (off = 0x008#12 ∧ v.getLsbD 2 = true) := by
  by_cases hl : locate off = .status
  · have hoff : off = 0x008#12 := BitVec.eq_of_toNat_eq (locateNat_eq_status hl)
    by_cases hv : v.getLsbD 2 = true
    · exact .inr ⟨hoff, hv⟩
    · left
      rw [State.writeWindow, hl, State.writeLoc, writeStatus_eq, if_neg hv]
      exact hw
  · exact .inl (writeLoc_werr hw hl v)

/-- The engine does not write WERR (R42, R103). -/
theorem engineTurn_werr (ht : engineTurn s = .next t) : t.werr = s.werr := by
  unfold engineTurn at ht
  split at ht
  · obtain ⟨e, he, -⟩ := completeLatched_effect s
    obtain ⟨code, -, -, -, -, -, -, -, -, hwerr, -, -⟩ := perform_completes s e
    rw [he] at ht
    cases ht
    exact hwerr
  · cases ht
    rfl

theorem deliver_werr {e : Event} (hw : s.werr = true) (ht : deliver e s = .next t) :
    t.werr = true ∨ e = .reset ∨ ∃ v, e = .write 0x008#12 4 v ∧ v.getLsbD 2 = true := by
  cases e with
  | engine => exact .inl ((engineTurn_werr ht).trans hw)
  | reset => exact .inr (.inl rfl)
  | read off size =>
    rw [deliver, hostRead_eq] at ht
    split at ht
    · cases ht
      exact .inl hw
    · cases ht
  | write off size v =>
    rw [deliver, hostWrite_eq] at ht
    split at ht
    · next hadm =>
      cases ht
      obtain hkept | ⟨hoff, hv⟩ := writeWindow_werr hw off v
      · exact .inl hkept
      · exact .inr (.inr ⟨v, by rw [hoff, hadm.1], hv⟩)
    · cases ht

/-- Settles O23: the writes by their location, and the staying of WERR by the event delivered. -/
theorem busyWritesRefused : Obligations.BusyWritesRefused := by
  refine ⟨fun s es off v hb halign hev => ?writes, fun s t hw ht => ?stays⟩
  case writes =>
    have hb' : ({ s with events := es } : State).busy = true := hb
    rw [step_write hev halign]
    refine ⟨fun h => congrArg _ ?refused, fun h h0 => congrArg _ ?start, fun h h0 => congrArg _ ?irqen,
      fun h => congrArg _ ?status, fun h => congrArg _ (writeWindow_ignored h _ v)⟩
    case refused =>
      obtain h | h := h
      · rw [State.writeWindow, locate, h]
        exact writeCmd_of_busy hb' v
      · rw [State.writeWindow, locate, locateNat_of_fFile h]
        exact writeFWord_of_busy hb' _ _ v
    case start =>
      rw [State.writeWindow, locate, h]
      exact writeCtrl_of_busy h0 hb'
    case irqen =>
      rw [State.writeWindow, locate, h]
      exact writeCtrl_of_not_start h0
    case status =>
      rw [State.writeWindow, locate, h]
      exact writeStatus_eq _ v
  case stays =>
    have hw' : ({ s with events := (nextEvent s).2 } : State).werr = true := hw
    exact deliver_werr hw' ht

/-! The reserved bits of CTRL and STATUS (R41) -/

theorem getLsbD_eq_of_and_eq {m : Word} {k : Nat} (h : v &&& m = w &&& m) (hk : m.getLsbD k = true) :
    v.getLsbD k = w.getLsbD k := by
  have hbit := congrArg (BitVec.getLsbD · k) h
  simpa [hk] using hbit

/-- The reserved bits of STATUS read 0 (R28, R41). -/
theorem statusWord_and_reserved (s : State) : s.statusWord &&& 0xFFFFE008#32 = 0#32 := by
  refine BitVec.eq_of_getLsbD_eq fun k hk => ?_
  rw [BitVec.getLsbD_and, getLsbD_statusWord s hk]
  interval_cases k <;> simp

/-- The reserved bits of CTRL, and START, read 0 (R27, R41). -/
theorem ctrlWord_and_reserved (s : State) : s.ctrlWord &&& 0xFFFFFFFC#32 = 0#32 := by
  rw [ctrlWord_eq]
  cases s.irqen <;> rfl

/-- Settles O24, sentence by sentence. -/
theorem reservedAndReadOnlyWritesIgnored : Obligations.ReservedAndReadOnlyWritesIgnored := by
  refine ⟨fun s es off v halign h hev => ?ignored, fun s off _ h => ?reads,
    fun s => ⟨statusWord_and_reserved s, ctrlWord_and_reserved s⟩, fun s v w h => ?status, fun s v w h => ?ctrl⟩
  case ignored => rw [step_write hev halign, writeWindow_ignored h]
  case reads => rw [State.readWindow, locate, locateNat_reserved h, State.readLoc]
  case status =>
    have h1 : v.getLsbD 1 = w.getLsbD 1 := getLsbD_eq_of_and_eq h rfl
    have h2 : v.getLsbD 2 = w.getLsbD 2 := getLsbD_eq_of_and_eq h rfl
    have hstatus : s.writeStatus v = s.writeStatus w := by rw [State.writeStatus, h1, h2, State.writeStatus]
    exact hstatus
  case ctrl =>
    have h0 : v.getLsbD 0 = w.getLsbD 0 := getLsbD_eq_of_and_eq h rfl
    have h1 : v.getLsbD 1 = w.getLsbD 1 := getLsbD_eq_of_and_eq h rfl
    have hctrl : s.writeCtrl v = s.writeCtrl w := by rw [State.writeCtrl, h0, h1, State.writeCtrl]
    exact hctrl

end Sys2Proof.Machine
end

section
/-! PROOF. The command word: encoding and decoding are inverse on the legal words. -/

namespace Sys2Proof

/-! The operations the decoder is made of -/

theorem ifUnusedZero_eq_ok {b : Bool} {r : Except DecodeError Instr} {i : Instr} :
    ifUnusedZero b r = .ok i ↔ b = true ∧ r = .ok i := by
  cases b <;> simp [ifUnusedZero]

theorem ifUnusedZero_ne_reserved {b : Bool} {r : Except DecodeError Instr} (h : r ≠ .error .reservedOpcode) :
    ifUnusedZero b r ≠ .error .reservedOpcode := by
  cases b
  · simp [ifUnusedZero]
  · exact h

theorem withModulus_bits (m : Modulus) (k : Modulus → Instr) : withModulus m.bits k = .ok (k m) := by
  cases m <;> rfl

theorem withModulus_eq_ok {m : BitVec 2} {k : Modulus → Instr} {i : Instr} :
    withModulus m k = .ok i ↔ ∃ μ : Modulus, m = μ.bits ∧ i = k μ := by
  constructor
  · intro h
    unfold withModulus at h
    split at h
    · exact ⟨.p, ‹_›, (Except.ok.inj h).symm⟩
    · split at h
      · exact ⟨.n, ‹_›, (Except.ok.inj h).symm⟩
      · cases h
  · rintro ⟨μ, rfl, rfl⟩
    exact withModulus_bits μ k

theorem withModulus_ne_reserved (m : BitVec 2) (k : Modulus → Instr) :
    withModulus m k ≠ .error .reservedOpcode := by
  unfold withModulus
  split_ifs <;> exact nofun

theorem eq_ofNat_of_toNat_eq {n k : Nat} {v : BitVec n} (h : v.toNat = k) : v = BitVec.ofNat n k := by
  rw [← h, BitVec.ofNat_toNat, BitVec.setWidth_eq]

/-! Encoding and decoding -/

/-- The decoder reads back the fields of a legal command. -/
theorem decodeFields_encodeFields {i : Instr} (h : i.wellFormed = true) : decodeFields (encodeFields i) = .ok i := by
  cases i
  case fldc d i =>
    have hi : selectorOk i = true := h
    simp [encodeFields, decodeFields, ifUnusedZero, hi]
  case fadd | fsub | fmul | finv | fexp => exact withModulus_bits _ _
  all_goals rfl

/-- Settles O1. -/
theorem decodeOfEncodedCommand : Obligations.DecodeOfEncodedCommand := by
  intro i h
  rw [encode, decode_packFields, decodeFields_encodeFields h]

/-- Fields that decode are those of the command they decode to, which is legal: one case per row of R53. -/
theorem encodeFields_of_decodeFields {x : Fields} {i : Instr} (h : decodeFields x = .ok i) :
    i.wellFormed = true ∧ encodeFields i = x := by
  obtain ⟨op, d, a, b, c, m, j⟩ := x
  unfold decodeFields at h
  split at h
  case h_28 => cases h
  all_goals
    rename_i hop
    obtain ⟨hzero, hr⟩ := ifUnusedZero_eq_ok.1 h
    obtain rfl := eq_ofNat_of_toNat_eq hop
    simp only [Bool.and_eq_true, beq_iff_eq] at hzero
  -- the modular commands, opcodes 0x01 to 0x05
  case h_2 | h_3 | h_4 | h_5 | h_6 =>
    obtain ⟨μ, rfl, rfl⟩ := withModulus_eq_ok.1 hr
    exact ⟨rfl, by simp [encodeFields, hzero]⟩
  -- FLDC, opcode 0x0A
  case h_11 =>
    split at hr
    case isTrue hsel =>
      cases hr
      exact ⟨hsel, by simp [encodeFields, hzero]⟩
    case isFalse => cases hr
  all_goals
    cases hr
    exact ⟨rfl, by simp [encodeFields, hzero]⟩

/-- Settles O2. -/
theorem encodeOfDecodedWord : Obligations.EncodeOfDecodedWord := by
  intro w i h
  obtain ⟨hwf, hx⟩ := encodeFields_of_decodeFields h
  exact ⟨hwf, by rw [encode, hx, packFields_splitWord]⟩

end Sys2Proof
end

section
/-! PROOF. Which words are legal: the rows of the opcode table, and the reserved and malformed words. -/

namespace Sys2Proof

/-! Legality and the opcode table -/

/-- The selects M = 0 and M = 1 have the bit a modular row masks clear (R51, R54). -/
theorem exists_withModulus_eq_ok {m : BitVec 2} (h : m &&& 2#2 = 0#2) (k : Modulus → Instr) :
    ∃ i, withModulus m k = .ok i := by
  have hm : m = Modulus.bits .p ∨ m = Modulus.bits .n := by
    revert m
    decide
  obtain rfl | rfl := hm <;> exact ⟨_, withModulus_bits _ k⟩

/-- Masking by all ones keeps the field: such a mask leaves the field no choice. -/
theorem and_eq_self_of_eq_allOnes {n : Nat} {mask : BitVec n} (h : mask = BitVec.allOnes n) (v : BitVec n) :
    v &&& mask = v := by
  rw [h, BitVec.and_allOnes]

/-- A row of the opcode table pins every field its command does not use, so its words decode. -/
theorem decodes_of_row {x : Fields} : ∀ r ∈ opcodeTable, x.and (splitWord r.mask) = splitWord r.bits →
    (r.mnemonic = "FLDC" → selectorOk x.i = true) → ∃ i, decodeFields x = .ok i := by
  simp only [opcodeTable, opcodeTableA, opcodeTableB, List.cons_append, List.nil_append, List.forall_mem_cons]
  refine ⟨?nop, ?fadd, ?fsub, ?fmul, ?finv, ?fexp, ?fcmp, ?fisz, ?ftbit, ?fmov, ?fldc, ?pseti, ?pseta, ?psetj, ?psetg,
    ?pgetx, ?pgety, ?pgetz, ?pmov, ?pneg, ?pdbl, ?padd, ?ponc, ?paff, ?pjac, ?psmul, ?zero, List.forall_mem_nil _⟩
  all_goals
    intro hx hsel
    simp [Fields.and, splitWord, and_eq_self_of_eq_allOnes] at hx
    simp only [decodeFields, hx]
  case fldc => exact ⟨_, if_pos (hsel trivial)⟩
  case fadd | fsub | fmul | finv | fexp => exact exists_withModulus_eq_ok (by simp only [hx]) _
  all_goals exact ⟨_, rfl⟩

/-- Each command's own row of the opcode table matches its word (R53). -/
theorem encode_matchesTable : ∀ i : Instr, Laws.MatchesTable.Statement i
  | .nop => Laws.MatchesTable.nop
  | .fadd .. => Laws.MatchesTable.fadd ..
  | .fsub .. => Laws.MatchesTable.fsub ..
  | .fmul .. => Laws.MatchesTable.fmul ..
  | .finv .. => Laws.MatchesTable.finv ..
  | .fexp .. => Laws.MatchesTable.fexp ..
  | .fcmp .. => Laws.MatchesTable.fcmp ..
  | .fisz .. => Laws.MatchesTable.fisz ..
  | .ftbit .. => Laws.MatchesTable.ftbit ..
  | .fmov .. => Laws.MatchesTable.fmov ..
  | .fldc .. => Laws.MatchesTable.fldc ..
  | .pseti .. => Laws.MatchesTable.pseti ..
  | .pseta .. => Laws.MatchesTable.pseta ..
  | .psetj .. => Laws.MatchesTable.psetj ..
  | .psetg .. => Laws.MatchesTable.psetg ..
  | .pgetx .. => Laws.MatchesTable.pgetx ..
  | .pgety .. => Laws.MatchesTable.pgety ..
  | .pgetz .. => Laws.MatchesTable.pgetz ..
  | .pmov .. => Laws.MatchesTable.pmov ..
  | .pneg .. => Laws.MatchesTable.pneg ..
  | .pdbl .. => Laws.MatchesTable.pdbl ..
  | .padd .. => Laws.MatchesTable.padd ..
  | .ponc .. => Laws.MatchesTable.ponc ..
  | .paff .. => Laws.MatchesTable.paff ..
  | .pjac .. => Laws.MatchesTable.pjac ..
  | .psmul .. => Laws.MatchesTable.psmul ..
  | .zero => Laws.MatchesTable.zero

/-- A legal word has the fields of its command. -/
theorem splitWord_of_decode {w : Word} {i : Instr} (h : decode w = .ok i) : splitWord w = encodeFields i :=
  (encodeFields_of_decodeFields h).2.symm

/-- FLDC alone has the opcode 0x0A, and a legal FLDC has a selector of at most 6 (R52, R53). -/
theorem selectorOk_of_op {i : Instr} (hwf : i.wellFormed = true) (hop : (encodeFields i).op.toNat = 0x0A) :
    selectorOk (encodeFields i).i = true := by
  cases i
  case fldc => exact hwf
  all_goals simp [encodeFields] at hop

theorem selector_le_of_decode {w : Word} {i : Instr} (h : decode w = .ok i) (hop : (splitWord w).op.toNat = 0x0A) :
    (splitWord w).i.toNat ≤ 6 := by
  rw [splitWord_of_decode h] at hop ⊢
  exact of_decide_eq_true (selectorOk_of_op (encodeOfDecodedWord w i h).1 hop)

theorem eq_of_mnemonic_fldc :
    ∀ r ∈ opcodeTable, r.mnemonic = "FLDC" → r = ⟨"FLDC", 0x28000000#32, 0xFC3FFF00#32⟩ := by
  decide

/-- A word of the row FLDC has the opcode 0x0A. -/
theorem op_of_matches_fldc {w : Word} {r : OpcodeRow} (hr : r ∈ opcodeTable) (hname : r.mnemonic = "FLDC")
    (h : r.matchesWord w = true) : (splitWord w).op.toNat = 0x0A := by
  obtain rfl := eq_of_mnemonic_fldc r hr hname
  have hmasked : (splitWord w).op &&& 63#6 = 0x0A#6 := congrArg Fields.op ((matchesWord_iff _ w).1 h)
  have hop : (splitWord w).op = 0x0A#6 := BitVec.and_allOnes.symm.trans hmasked
  rw [hop]
  rfl

/-- Settles O3. -/
theorem legalWordsMatchOpcodeTable : Obligations.LegalWordsMatchOpcodeTable := by
  intro w
  constructor
  · rintro ⟨i, h⟩
    obtain ⟨r, hrow, hmatch⟩ := encode_matchesTable i
    rw [(encodeOfDecodedWord w i h).2] at hmatch
    have hr : r ∈ opcodeTable := List.mem_of_getElem? hrow
    exact ⟨r, hr, eq_of_beq hmatch, fun hname => selector_le_of_decode h (op_of_matches_fldc hr hname hmatch)⟩
  · rintro ⟨r, hr, hmask, hsel⟩
    exact decodes_of_row r hr ((matchesWord_iff r w).1 (beq_iff_eq.2 hmask)) fun hname => decide_eq_true (hsel hname)

/-! The words that are not legal -/

theorem decodeFields_eq_reserved_iff (x : Fields) : decodeFields x = .error .reservedOpcode ↔
    (0x0B ≤ x.op.toNat ∧ x.op.toNat ≤ 0x0F) ∨ (0x1E ≤ x.op.toNat ∧ x.op.toNat ≤ 0x1F) ∨
      (0x21 ≤ x.op.toNat ∧ x.op.toNat ≤ 0x2F) ∨ 0x31 ≤ x.op.toNat := by
  have hlt := x.op.isLt
  unfold decodeFields
  split
  case h_28 =>
    refine iff_of_true rfl ?_
    simp only [imp_false] at *
    omega
  all_goals
    rename_i hop
    rw [hop]
    refine iff_of_false (ifUnusedZero_ne_reserved ?_) (by decide)
  case h_2 | h_3 | h_4 | h_5 | h_6 => exact withModulus_ne_reserved _ _
  case h_11 => split_ifs <;> exact nofun
  all_goals exact nofun

theorem bits_upper (m : Modulus) : m.bits.getLsbD 1 = false := by
  cases m <;> decide

/-- The upper bit of M is 0 in every command (R51, R53). -/
theorem encodeFields_m_upper (i : Instr) : (encodeFields i).m.getLsbD 1 = false := by
  cases i
  case fadd m | fsub m | fmul m | finv m | fexp m => exact bits_upper m
  all_goals exact BitVec.getLsbD_zero

/-- Settles O4: a legal word has the fields of a command, which no malformed word has. -/
theorem reservedAndMalformedWordsRejected : Obligations.ReservedAndMalformedWordsRejected := by
  refine ⟨fun w => decodeFields_eq_reserved_iff (splitWord w), fun w _ _ hbit i h => ?modulus,
    fun w hop hi i h => ?selector⟩
  case modulus =>
    have hm : (splitWord w).m.getLsbD 1 = false := by rw [splitWord_of_decode h, encodeFields_m_upper]
    have hbit' : (splitWord w).m.getLsbD 1 = true := by simpa [splitWord] using hbit
    exact absurd (hm.symm.trans hbit') (by decide)
  case selector => exact Nat.not_lt.2 (selector_le_of_decode h hop) hi

end Sys2Proof
end

section
/-! PROOF. The assembler: its commands are legal, and the pseudo-instructions expand as R57 lists them. -/

namespace Sys2Proof.Machine

open Sys2Proof

/-- Whatever commands an assembler's result holds are legal. -/
def AllLegal (r : Except AsmError (List Instr)) : Prop :=
  ∀ is, r = .ok is → ∀ i ∈ is, i.wellFormed = true

theorem allLegal_error (e : AsmError) : AllLegal (.error e) := by
  intro is h
  cases h

theorem allLegal_ok {is : List Instr} (h : ∀ i ∈ is, i.wellFormed = true) : AllLegal (.ok is) := by
  rintro _ ⟨⟩
  exact h

theorem allLegal_ite {c : Prop} [Decidable c] {r r' : Except AsmError (List Instr)} (h : AllLegal r)
    (h' : AllLegal r') : AllLegal (if c then r else r') := by
  split
  · exact h
  · exact h'

theorem pairOf_eq_ok {α β γ : Type} {x : Except AsmError α} {y : Except AsmError β} {k : α → β → γ} {z : γ} :
    pairOf x y k = .ok z ↔ ∃ a b, x = .ok a ∧ y = .ok b ∧ z = k a b := by
  cases x <;> cases y <;> simp [pairOf, eq_comm]

section
variable {α β γ : Type} {pa : List Char → Except AsmError α} {pb : List Char → Except AsmError β}
  {pc : List Char → Except AsmError γ} {ops : List (List Char)}

theorem allLegal_asmNone {is : List Instr} (h : ∀ i ∈ is, i.wellFormed = true) : AllLegal (asmNone ops is) := by
  unfold asmNone
  split
  · exact allLegal_ok h
  · exact allLegal_error _

theorem allLegal_asmOne {k : α → List Instr} (h : ∀ x, ∀ i ∈ k x, i.wellFormed = true) :
    AllLegal (asmOne pa ops k) := by
  unfold asmOne
  split
  · split
    · exact allLegal_error _
    · exact allLegal_ok (h _)
  · exact allLegal_error _

theorem allLegal_asmTwo {k : α → β → List Instr}
    (h : ∀ cs x y, pb cs = .ok y → ∀ i ∈ k x y, i.wellFormed = true) : AllLegal (asmTwo pa pb ops k) := by
  unfold asmTwo
  split
  · intro is his
    obtain ⟨x, y, -, hy, rfl⟩ := pairOf_eq_ok.1 his
    exact h _ x y hy
  · exact allLegal_error _

theorem allLegal_asmThree {k : α → β → γ → List Instr} (h : ∀ x y z, ∀ i ∈ k x y z, i.wellFormed = true) :
    AllLegal (asmThree pa pb pc ops k) := by
  unfold asmThree
  split
  · split
    · exact allLegal_error _
    · split
      · exact allLegal_error _
      · exact allLegal_ok (h _ _ _)
  · exact allLegal_error _

theorem allLegal_asmPointFromThree {k : RegIdx → RegIdx → RegIdx → RegIdx → List Instr}
    (h : ∀ x y z w, ∀ i ∈ k x y z w, i.wellFormed = true) : AllLegal (asmPointFromThree ops k) := by
  unfold asmPointFromThree
  split
  · split
    · exact allLegal_ok (h _ _ _ _)
    · exact allLegal_error _
    · exact allLegal_error _
  · exact allLegal_error _

end

theorem allLegal_asmPsub (ops : List (List Char)) : AllLegal (asmPsub ops) := by
  unfold asmPsub
  split
  · exact allLegal_ite (allLegal_error _) (allLegal_ok (by simp [Instr.wellFormed]))
  · exact allLegal_asmThree (by simp [Instr.wellFormed])

theorem parseImm_le {top : Nat} {cs : List Char} {v : BitVec 8} (h : parseImm top cs = .ok v) : v.toNat ≤ top := by
  unfold parseImm at h
  split at h
  · split at h
    · split at h
      case isTrue n _ hn =>
        cases h
        exact (Nat.mod_le n _).trans hn
      case isFalse => cases h
    · cases h
  · cases h

theorem selectorOk_of_parseSelector {cs : List Char} {v : BitVec 8} (h : parseSelector cs = .ok v) :
    selectorOk v = true := by
  unfold parseSelector at h
  split_ifs at h
  case neg => exact decide_eq_true (parseImm_le h)
  all_goals
    cases h
    rfl

/-- The mnemonics with a modulus suffix, in the order of `asmModular`. -/
theorem allLegal_asmModular {name : String} {m : Modulus} {ops : List (List Char)} {r : Except AsmError (List Instr)}
    (h : asmModular name m ops = some r) : AllLegal r := by
  unfold asmModular at h
  split_ifs at h <;> obtain rfl := Option.some.inj h
  · exact allLegal_asmThree (by simp [Instr.wellFormed])
  · exact allLegal_asmThree (by simp [Instr.wellFormed])
  · exact allLegal_asmThree (by simp [Instr.wellFormed])
  · exact allLegal_asmTwo (by simp [Instr.wellFormed])
  · exact allLegal_asmThree (by simp [Instr.wellFormed])
  · exact allLegal_asmTwo (by simp [Instr.wellFormed])
  · exact allLegal_asmTwo (by simp [Instr.wellFormed])

/-- The other mnemonics, in the order of `asmPlain`; only FLDC's operand can be out of range. -/
theorem allLegal_asmPlain (name : String) (ops : List (List Char)) : AllLegal (asmPlain name ops) := by
  rw [asmPlain]
  refine
    allLegal_ite (allLegal_asmNone ?nop) <| allLegal_ite (allLegal_asmNone ?zero) <|
    allLegal_ite (allLegal_asmTwo ?fcmp) <| allLegal_ite (allLegal_asmOne ?fisz) <|
    allLegal_ite (allLegal_asmTwo ?ftbit) <| allLegal_ite (allLegal_asmTwo ?fmov) <|
    allLegal_ite (allLegal_asmTwo ?fldc) <| allLegal_ite (allLegal_asmOne ?pseti) <|
    allLegal_ite (allLegal_asmThree ?pseta) <| allLegal_ite (allLegal_asmPointFromThree ?psetj) <|
    allLegal_ite (allLegal_asmOne ?psetg) <| allLegal_ite (allLegal_asmTwo ?pgetx) <|
    allLegal_ite (allLegal_asmTwo ?pgety) <| allLegal_ite (allLegal_asmTwo ?pgetz) <|
    allLegal_ite (allLegal_asmTwo ?pmov) <| allLegal_ite (allLegal_asmTwo ?pneg) <|
    allLegal_ite (allLegal_asmTwo ?pdbl) <| allLegal_ite (allLegal_asmThree ?padd) <|
    allLegal_ite (allLegal_asmOne ?ponc) <| allLegal_ite (allLegal_asmTwo ?paff) <|
    allLegal_ite (allLegal_asmTwo ?pjac) <| allLegal_ite (allLegal_asmThree ?psmul) <|
    allLegal_ite (allLegal_asmOne ?fclr) <| allLegal_ite (allLegal_asmPsub ops) <|
    allLegal_ite (allLegal_asmTwo ?psmulg) <| allLegal_error _
  case fldc =>
    intro cs d v hv i hi
    obtain rfl := List.mem_singleton.1 hi
    exact selectorOk_of_parseSelector hv
  all_goals simp [Instr.wellFormed]

theorem allLegal_asmCommand (name : String) (suffix : List Char) (ops : List (List Char)) :
    AllLegal (asmCommand name suffix ops) := by
  unfold asmCommand
  refine allLegal_ite ?absent <| allLegal_ite ?p <| allLegal_ite ?n <| allLegal_error _
  case absent =>
    split
    · exact allLegal_asmModular ‹_›
    · exact allLegal_asmPlain name ops
  all_goals
    split
    · exact allLegal_asmModular ‹_›
    · exact allLegal_error _

theorem allLegal_asmLine (line : String) : AllLegal (asmLine line) :=
  allLegal_ite (allLegal_ok (by simp)) (allLegal_asmCommand _ _ _)

/-- Settles O6. -/
theorem assemblerEmitsLegalWords : Obligations.AssemblerEmitsLegalWords := by
  intro line ws h w hw
  unfold asmWords at h
  split at h
  case h_1 is his =>
    cases h
    obtain ⟨i, hi, rfl⟩ := List.mem_map.1 hw
    exact ⟨i, decodeOfEncodedCommand i (allLegal_asmLine line is his i hi)⟩
  case h_2 => cases h

/-! What a line's operands give -/

section
variable {α β γ : Type} {pa : List Char → Except AsmError α} {pb : List Char → Except AsmError β}
  {pc : List Char → Except AsmError γ} {x y z : List Char} {a : α} {b : β} {c : γ}

theorem asmOne_of_ok (ha : pa x = .ok a) (k : α → List Instr) : asmOne pa [x] k = .ok (k a) := by
  simp only [asmOne, ha]

theorem asmTwo_of_ok (ha : pa x = .ok a) (hb : pb y = .ok b) (k : α → β → List Instr) :
    asmTwo pa pb [x, y] k = .ok (k a b) := by
  simp only [asmTwo, pairOf, ha, hb]

theorem asmThree_of_ok (ha : pa x = .ok a) (hb : pb y = .ok b) (hc : pc z = .ok c) (k : α → β → γ → List Instr) :
    asmThree pa pb pc [x, y, z] k = .ok (k a b c) := by
  simp only [asmThree, pairOf, ha, hb, hc]

end

theorem asmPsub_of_ok {x y z : List Char} {d a b : RegIdx} (hd : parsePt x = .ok d) (ha : parsePt y = .ok a)
    (hb : parsePt z = .ok b) :
    asmPsub [x, y, z] = if d = a then .error .overlap else .ok [.pneg d b, .padd d a d] := by
  rw [asmPsub, asmThree_of_ok hd ha hb]

/-- Settles O7. -/
theorem pseudoInstructionExpansions : Obligations.PseudoInstructionExpansions := by
  intro m x y z d a b suffix
  refine ⟨fun hd ha => ?modular, fun hd => ?fclr, fun hd ha hb => ?psub, fun hd hb => ?psmulg⟩
  case modular =>
    have hsqr : asmCommand "FSQR" suffix [x, y] = asmTwo parseF parseF [x, y] fun d a => [.fmul d a a m] := by
      cases m <;> rfl
    have hdbl : asmCommand "FDBL" suffix [x, y] = asmTwo parseF parseF [x, y] fun d a => [.fadd d a a m] := by
      cases m <;> rfl
    rw [hsqr, hdbl]
    exact ⟨asmTwo_of_ok hd ha _, asmTwo_of_ok hd ha _⟩
  case fclr => exact asmOne_of_ok hd _
  case psub => exact asmPsub_of_ok hd ha hb
  case psmulg => exact asmTwo_of_ok hd hb _

/-- Settles O5: the examples by evaluation, the illegal ones by the condition of R54 each meets. -/
theorem encodingExamples : Obligations.EncodingExamples := by
  have hillegal {w : Word} {e : DecodeError} (h : decode w = .error e) (i : Instr) : decode w ≠ .ok i := by
    rw [h]
    exact nofun
  refine ⟨?_, ?_, ?_, ?_, ?_, ?_, ?_, ?_, ?_, ?_, ?_, ?_, ?_, ?_, ?_, ?_, ?_, ?_, ?_, ?_, ?_, ?_,
    hillegal (e := .unusedField) ?_, hillegal (e := .badModulus) ?_, hillegal (e := .badSelector) ?_,
    hillegal (e := .reservedOpcode) ?_, hillegal (e := .unusedField) ?_⟩
  all_goals decide

end Sys2Proof.Machine
end

section
/-! PROOF. The engine's turn on an illegal word (R54, R103). -/

namespace Sys2Proof.Machine

open Sys2Proof

/-- The completion step of an illegal word is the ILLEGAL completion (R54). -/
theorem completeLatched_of_error {s : State} {e : DecodeError} (h : decode s.cl = .error e) :
    completeLatched s = .next (s.complete .illegal) := by
  simp only [completeLatched, h]

/-- Settles O9. -/
theorem stepOnIllegalWord : Obligations.StepOnIllegalWord := by
  intro s es e hb hn he
  have hstep : step s = .next ({ s with events := es }.complete .illegal) := by
    rw [step_engine_busy hb (congrArg Prod.fst hn), hn]
    exact completeLatched_of_error he
  exact ⟨_, hstep, complete_writesNothing _ .illegal, rfl⟩

end Sys2Proof.Machine
end

section
/-! PROOF. The field commands that write a field register (R60 to R64, R68, R69). -/

namespace Sys2Proof.Machine

open Sys2Proof

/-! Results modulo m -/

/-- A command that ends by writing a residue of the selected modulus changes nothing else. -/
theorem writeNatF_residue {s : State} {v : Nat} {m : Modulus} (d : RegIdx) (hv : v < s.modulus m) :
    WritesOnlyF s ((s.writeNatF d v).complete .ok) d v :=
  writeNatF_complete s d (hv.trans (modulus_lt s m))

/-- Settles O31. -/
theorem faddResult : Obligations.FaddResult := by
  intro d a b m s hc
  have hm : 0 < s.modulus m := Nat.zero_lt_of_lt (modulus_gt_one hc m)
  exact ⟨⟨_, rfl, writeNatF_residue d (addMod_lt hm)⟩, rfl⟩

/-- Settles O32: the residue stored is that of the integer difference. -/
theorem fsubResult : Obligations.FsubResult := by
  intro d a b m s hc
  have hm : 0 < s.modulus m := Nat.zero_lt_of_lt (modulus_gt_one hc m)
  exact ⟨⟨_, _, rfl, writeNatF_residue d (subMod_lt hm), subMod_cast_int hm⟩, rfl⟩

/-- Settles O33. -/
theorem fmulResult : Obligations.FmulResult := by
  intro d a b m s hc
  have hm : 0 < s.modulus m := Nat.zero_lt_of_lt (modulus_gt_one hc m)
  exact ⟨⟨_, rfl, writeNatF_residue d (mulMod_lt hm)⟩, rfl⟩

/-- Settles O35: the squaring loop is the power, since a raw exponent is below 2 ^ 256, the bound of its 256 rounds. -/
theorem fexpResult : Obligations.FexpResult := by
  intro d a b m s hc
  have hm : 1 < s.modulus m := modulus_gt_one hc m
  have hexp : expMod 256 (s.modulus m) (s.natF a) (s.natF b) = s.natF a ^ s.natF b % s.modulus m :=
    expMod_eq 256 _ _ (s.readF b).isLt
  have hlt : expMod 256 (s.modulus m) (s.natF a) (s.natF b) < s.modulus m :=
    hexp ▸ Nat.mod_lt _ (Nat.zero_lt_of_lt hm)
  refine ⟨⟨_, _, rfl, writeNatF_residue d hlt, hexp, fun (hb : s.natF b = 0) => ?_⟩, rfl⟩
  rw [hexp, hb, pow_zero, Nat.mod_eq_of_lt hm]

/-! The inverse -/

variable {m a u v : Nat}

/-- The integer form of R63's inverse is the inverse in `ZMod m`. -/
theorem mod_mul_mod_eq_one_iff (hm : 1 < m) : a % m * u % m = 1 ↔ (a : ZMod m) * u = 1 := by
  have h := ZMod.natCast_eq_natCast_iff' (a * u) 1 m
  rw [Nat.mod_eq_of_lt hm] at h
  rw [Nat.mod_mul_mod, ← h, Nat.cast_mul, Nat.cast_one]

/-- Two residues that are both inverse to a are equal. -/
theorem inverse_unique (hu : u < m) (hv : v < m) (hau : (a : ZMod m) * u = 1) (hav : (a : ZMod m) * v = 1) : u = v :=
  eq_of_cast_eq hu hv (left_inv_eq_right_inv (by rwa [mul_comm]) hav)

/-- Modulo a prime the residue 0 alone shares a factor with the modulus. -/
theorem gcd_mod_prime_ne_one_iff (hp : m.Prime) (a : Nat) : Nat.gcd (a % m) m ≠ 1 ↔ a % m = 0 := by
  rw [Nat.gcd_comm, Ne, ← Nat.coprime_iff_gcd_eq_one, hp.coprime_iff_not_dvd, not_not, Nat.dvd_iff_mod_eq_zero,
    Nat.mod_mod]

/-- Settles O34: `invMod` answers exactly when the operand shares no factor with the modulus, and then the inverse. -/
theorem finvResult : Obligations.FinvResult := by
  intro d a m s hc
  have hm : 1 < s.modulus m := modulus_gt_one hc m
  have hgcd : Nat.gcd (s.natF a) (s.modulus m) = Nat.gcd (s.natF a % s.modulus m) (s.modulus m) :=
    (Nat.gcd_comm _ _).trans (Nat.gcd_rec _ _)
  have hone {u : Nat} : s.natF a % s.modulus m * u % s.modulus m = 1 ↔ (s.natF a : ZMod (s.modulus m)) * u = 1 :=
    mod_mul_mod_eq_one_iff hm
  have hspec := invMod_spec (s.natF a) hm (modulus_lt s m)
  rw [hgcd] at hspec
  refine ⟨fun hg => ?inverse, fun hg => ?noInverse, fun hp => gcd_mod_prime_ne_one_iff hp (s.natF a), rfl⟩
  case inverse =>
    obtain ⟨-, v, hinv, hlt, hmul⟩ | ⟨hne, -⟩ := hspec
    · have hpos : 1 ≤ v := by
        refine Nat.one_le_iff_ne_zero.2 fun hv => ?_
        have hmul' := hone.2 hmul
        simp [hv] at hmul'
      exact ⟨_, v, exec_finv_some hinv, writeNatF_residue d hlt, hpos, hlt, hone.2 hmul,
        fun u _ hu hau => inverse_unique hu hlt (hone.1 hau) hmul⟩
    · exact absurd hg hne
  case noInverse =>
    obtain ⟨heq, -⟩ | ⟨-, hinv⟩ := hspec
    · exact absurd heq hg
    · exact ⟨_, exec_finv_none hinv, complete_writesNothing s .noinv, rfl⟩

/-! Copies -/

/-- Settles O39. -/
theorem fmovResult : Obligations.FmovResult := by
  intro d a s
  refine ⟨rfl, _, rfl, writeF_complete s d (s.readF a), ?_⟩
  rintro rfl r
  rw [State.complete_readF, readF_writeF]
  split
  · next h => rw [h]
  · rfl

/-- No constant has a number above 6 (R25). -/
theorem curveConst_of_gt (c : Curve) {k : Nat} (hk : 6 < k) : curveConst c k = none := by
  obtain ⟨j, rfl⟩ : ∃ j, k = j + 7 := Nat.exists_eq_add_of_le' hk
  rfl

/-- Settles O40: each of the seven selectors names its constant, and a greater one none. -/
theorem fldcResult : Obligations.FldcResult := by
  intro d i s
  refine ⟨rfl, fun v hv => ?_⟩
  by_cases hi : i.toNat ≤ 6
  · have hconst : curveConst s.config.curve i.toNat = some v := by
      obtain ⟨rfl, rfl⟩ | ⟨rfl, rfl⟩ | ⟨rfl, rfl⟩ | ⟨rfl, rfl⟩ | ⟨rfl, rfl⟩ | ⟨rfl, rfl⟩ | ⟨rfl, rfl⟩ | h := hv
      any_goals rfl
      exact absurd hi h.not_ge
    exact ⟨_, exec_fldc_some hconst, by rw [if_pos hi]; exact writeF_complete s d v⟩
  · have hnone := curveConst_of_gt s.config.curve (not_le.1 hi)
    exact ⟨_, exec_fldc_none hnone, by rw [if_neg hi]; exact ⟨complete_writesNothing s .illegal, rfl⟩⟩

end Sys2Proof.Machine
end

section
/-! PROOF. The field commands that write a flag (R65 to R67). -/

namespace Sys2Proof.Machine

open Sys2Proof

variable {x y : Value}

/-- A command that ends by writing flags completes with code OK and leaves F and PT. -/
theorem complete_withFlags (s : State) (c : BitVec 2) (z b o : Bool) :
    let t := { s with cmp := c, zf := z, bitf := b, onc := o }.complete .ok
    Completes s t .ok ∧ SameF s t ∧ SamePt s t :=
  ⟨by simp [Completes], fun _ => rfl, fun _ => rfl⟩

theorem compareBits_of_lt (h : x.toNat < y.toNat) : compareBits x y = 0b11#2 := if_pos h

theorem compareBits_of_eq (h : x.toNat = y.toNat) : compareBits x y = 0b00#2 := by
  simp [compareBits, h]

theorem compareBits_of_gt (h : y.toNat < x.toNat) : compareBits x y = 0b01#2 := by
  rw [compareBits, if_neg h.asymm, if_neg h.ne']

theorem isZeroFlag_iff : isZeroFlag x = true ↔ x = 0#256 := by
  rw [isZeroFlag, beq_iff_eq, BitVec.toNat_eq, BitVec.toNat_zero]

theorem testBitFlag_eq_getLsbD (x : Value) (i : BitVec 8) : testBitFlag x i = x.getLsbD i.toNat := rfl

/-- Settles O36. -/
theorem fcmpResult : Obligations.FcmpResult := by
  intro a b s
  obtain ⟨hcomp, hf, hpt⟩ := complete_withFlags s (compareBits (s.readF a) (s.readF b)) s.zf s.bitf s.onc
  exact ⟨rfl, _, rfl, hcomp, hf, hpt, rfl, rfl, rfl, compareBits_of_lt, compareBits_of_eq, compareBits_of_gt⟩

/-- Settles O37. -/
theorem fiszResult : Obligations.FiszResult := by
  intro a s
  obtain ⟨hcomp, hf, hpt⟩ := complete_withFlags s s.cmp (isZeroFlag (s.readF a)) s.bitf s.onc
  exact ⟨rfl, _, rfl, hcomp, hf, hpt, rfl, rfl, rfl, isZeroFlag_iff⟩

/-- Settles O38. -/
theorem ftbitResult : Obligations.FtbitResult := by
  intro a i s
  obtain ⟨hcomp, hf, hpt⟩ := complete_withFlags s s.cmp s.zf (testBitFlag (s.readF a) i) s.onc
  exact ⟨rfl, _, rfl, hcomp, hf, hpt, rfl, rfl, rfl, testBitFlag_eq_getLsbD _ i⟩

end Sys2Proof.Machine
end

section
/-! PROOF. What the point functions compute, in the integers mod p (R70 to R76). -/

namespace Sys2Proof.Machine

open Sys2Proof

/-! The rules of R71 and R73, over `ZMod p` -/

/-- (x₃, y₃) is the sum of (x₁, y₁) and (x₂, y₂) by the chord rule (R73 step 4). -/
def ChordSum {p : Nat} (x₁ y₁ x₂ y₂ x₃ y₃ : ZMod p) : Prop :=
  ∃ l, l * (x₂ - x₁) = y₂ - y₁ ∧ x₃ = l ^ 2 - x₁ - x₂ ∧ y₃ = l * (x₁ - x₃) - y₁

/-- (x₃, y₃) is the double of (x, y) by the tangent rule of a curve with coefficient `a` (R71). -/
def TangentDouble {p : Nat} (a x y x₃ y₃ : ZMod p) : Prop :=
  ∃ l, l * (2 * y) = 3 * x ^ 2 + a ∧ x₃ = l ^ 2 - 2 * x ∧ y₃ = l * (x - x₃) - y

/-- (x₃, y₃, z₃) is the double of (x, y, z) by R71's Jacobian formulas. -/
def JacobianDouble {p : Nat} (a x y z x₃ y₃ z₃ : ZMod p) : Prop :=
  ∃ s m, s = 4 * x * y ^ 2 ∧ m = 3 * x ^ 2 + a * z ^ 4 ∧ x₃ = m ^ 2 - 2 * s ∧
    y₃ = m * (s - x₃) - 8 * y ^ 4 ∧ z₃ = 2 * y * z

/-- (x₃, y₃, z₃) is the sum by R73's Jacobian formulas, from u₁, s₁, the differences h and r, and z₁, z₂. -/
def JacobianSum {p : Nat} (u₁ s₁ h r z₁ z₂ x₃ y₃ z₃ : ZMod p) : Prop :=
  x₃ = r ^ 2 - h ^ 3 - 2 * u₁ * h ^ 2 ∧ y₃ = r * (u₁ * h ^ 2 - x₃) - s₁ * h ^ 3 ∧ z₃ = h * z₁ * z₂

/-- The Jacobian sum of two affine points, each given with some Z, is their chord sum. -/
theorem JacobianSum.chordSum {p : Nat} [Fact p.Prime] {x₁ y₁ x₂ y₂ z₁ z₂ x₃ y₃ x y z : ZMod p}
    (hsum : JacobianSum (x₁ * z₁ ^ 2 * z₂ ^ 2) (y₁ * z₁ ^ 3 * z₂ ^ 3) (x₂ * z₂ ^ 2 * z₁ ^ 2 - x₁ * z₁ ^ 2 * z₂ ^ 2)
      (y₂ * z₂ ^ 3 * z₁ ^ 3 - y₁ * z₁ ^ 3 * z₂ ^ 3) z₁ z₂ x₃ y₃ z)
    (hz : z ≠ 0) (hx : x * z ^ 2 = x₃) (hy : y * z ^ 3 = y₃) : ChordSum x₁ y₁ x₂ y₂ x y := by
  obtain ⟨hx₃, hy₃, hz₃⟩ := hsum
  obtain ⟨l, hl⟩ : ∃ l, l * z = y₂ * z₂ ^ 3 * z₁ ^ 3 - y₁ * z₁ ^ 3 * z₂ ^ 3 := ⟨_, div_mul_cancel₀ _ hz⟩
  rw [← hl] at hx₃ hy₃
  refine ⟨l, mul_right_cancel₀ hz ?_, mul_right_cancel₀ (pow_ne_zero 2 hz) ?_, mul_right_cancel₀ (pow_ne_zero 3 hz) ?_⟩
  · linear_combination (x₂ - x₁) * hl - (y₂ - y₁) * hz₃
  · rw [hx, hx₃, hz₃]
    ring
  · rw [hy, hy₃, ← hx, hz₃]
    ring

/-! What each point function answers -/

section
variable {c : Curve} {v w q : Point} {x y z x₁ y₁ z₁ x₂ y₂ z₂ : Nat}

theorem subMod_of_le {m x y : Nat} (h : y ≤ x) : subMod m x y = (x - y) % m := by
  rw [subMod, ← Int.ofNat_sub h, ← Int.natCast_emod, Int.toNat_natCast]

/-- The curve's equation mod m, as the stored residues of its two sides. -/
theorem mulMod_eq_addMod_iff {m a b u v : Nat} : mulMod m a b = addMod m u v ↔ (a : ZMod m) * b = u + v := by
  rw [mulMod, addMod, ← ZMod.natCast_eq_natCast_iff', Nat.cast_mul, Nat.cast_add]

theorem mulMod_eq_mulMod_iff {m a b a' b' : Nat} : mulMod m a b = mulMod m a' b' ↔ (a : ZMod m) * b = a' * b' := by
  rw [mulMod, mulMod, ← ZMod.natCast_eq_natCast_iff', Nat.cast_mul, Nat.cast_mul]

theorem pointOnCurve_aff_iff : pointOnCurve c (.aff x y) = true ↔
    (y : ZMod c.p.toNat) ^ 2 = (x : ZMod c.p.toNat) ^ 3 + (c.a.toNat : ZMod c.p.toNat) * x + c.b.toNat := by
  simp only [pointOnCurve, beq_iff_eq, mulMod_eq_addMod_iff, cast_addMod, cast_mulMod]
  exact Eq.congr (by ring) (by ring)

theorem pointOnCurve_jac_iff : pointOnCurve c (.jac x y z) = true ↔
    (y : ZMod c.p.toNat) ^ 2 = (x : ZMod c.p.toNat) ^ 3 + (c.a.toNat : ZMod c.p.toNat) * x * (z : ZMod c.p.toNat) ^ 4 +
      (c.b.toNat : ZMod c.p.toNat) * (z : ZMod c.p.toNat) ^ 6 := by
  simp only [pointOnCurve, beq_iff_eq, mulMod_eq_addMod_iff, cast_addMod, cast_mulMod]
  exact Eq.congr (by ring) (by ring)

/-- The tangent rule on an affine point with y ≠ 0 (R71). -/
theorem pointDbl_aff (hc : c.Valid) (h0 : y ≠ 0) (hq : pointDbl c (.aff x y) = some q) :
    ∃ x₃ y₃ : Nat, q = .aff x₃ y₃ ∧ TangentDouble (p := c.p.toNat) c.a.toNat x y x₃ y₃ := by
  have hp := hc.1.pos
  simp only [pointDbl, if_neg h0, dblAffine] at hq
  split at hq
  next => cases hq
  next i hi =>
    cases hq
    have hi' := mul_invMod_eq_one hc.1.one_lt c.p.isLt hi
    simp only [cast_mulMod, Nat.cast_ofNat] at hi'
    refine ⟨_, _, rfl, (3 * x ^ 2 + c.a.toNat) * i, ?_, ?_, ?_⟩
    · linear_combination (3 * (x : ZMod c.p.toNat) ^ 2 + c.a.toNat) * hi'
    · simp [cast_subMod hp, pow_two]
    · simp [cast_subMod hp, pow_two]

/-- The Jacobian formulas on a Jacobian point with Y ≠ 0 (R71). -/
theorem pointDbl_jac (hc : c.Valid) (h0 : y ≠ 0) (hq : pointDbl c (.jac x y z) = some q) :
    ∃ x₃ y₃ z₃ : Nat, q = .jac x₃ y₃ z₃ ∧ JacobianDouble (p := c.p.toNat) c.a.toNat x y z x₃ y₃ z₃ := by
  have hp := hc.1.pos
  simp only [pointDbl, if_neg h0, Option.some.injEq] at hq
  subst hq
  refine ⟨_, _, _, rfl, _, _, rfl, rfl, ?_, ?_, ?_⟩
  · simp only [cast_subMod hp, cast_mulMod, cast_addMod, Nat.cast_ofNat]
    ring
  · simp only [cast_subMod hp, cast_mulMod, cast_addMod, Nat.cast_ofNat]
    ring
  · simp only [cast_mulMod, Nat.cast_ofNat]
    ring

theorem pointAdd_inf_left : pointAdd c .inf w = some w := by cases w <;> rfl

theorem pointAdd_inf_right : pointAdd c v .inf = some v := by cases v <;> rfl

theorem pointAdd_aff_self : pointAdd c (.aff x y) (.aff x y) = pointDbl c (.aff x y) :=
  (if_pos rfl).trans (if_pos rfl)

theorem pointAdd_aff_vertical (hy : y₁ ≠ y₂) : pointAdd c (.aff x y₁) (.aff x y₂) = some .inf :=
  (if_pos rfl).trans (if_neg hy)

/-- The chord rule on affine points with different x (R73 step 4). -/
theorem pointAdd_aff (hc : c.Valid) (hx : x₁ ≠ x₂) (hq : pointAdd c (.aff x₁ y₁) (.aff x₂ y₂) = some q) :
    ∃ x₃ y₃ : Nat, q = .aff x₃ y₃ ∧ ChordSum (p := c.p.toNat) x₁ y₁ x₂ y₂ x₃ y₃ := by
  have hp := hc.1.pos
  simp only [pointAdd, if_neg hx, addAffine] at hq
  split at hq
  next => cases hq
  next i hi =>
    cases hq
    have hi' := mul_invMod_eq_one hc.1.one_lt c.p.isLt hi
    rw [cast_subMod hp] at hi'
    refine ⟨_, _, rfl, (y₂ - y₁) * i, ?_, ?_, ?_⟩
    · linear_combination ((y₂ : ZMod c.p.toNat) - y₁) * hi'
    · simp [cast_subMod hp, pow_two]
    · simp [cast_subMod hp]

/-! Pairs with a Jacobian operand: an affine operand takes part with Z = 1 (R73 step 5) -/

/-- The operands are no identities and not both affine, and the numbers are their Jacobian coordinates. -/
inductive MixedPair : (v w : Point) → (x₁ y₁ z₁ x₂ y₂ z₂ : Nat) → Prop where
  | affJac {x₁ y₁ x₂ y₂ z₂ : Nat} : MixedPair (.aff x₁ y₁) (.jac x₂ y₂ z₂) x₁ y₁ 1 x₂ y₂ z₂
  | jacAff {x₁ y₁ z₁ x₂ y₂ : Nat} : MixedPair (.jac x₁ y₁ z₁) (.aff x₂ y₂) x₁ y₁ z₁ x₂ y₂ 1
  | jacJac {x₁ y₁ z₁ x₂ y₂ z₂ : Nat} : MixedPair (.jac x₁ y₁ z₁) (.jac x₂ y₂ z₂) x₁ y₁ z₁ x₂ y₂ z₂

theorem MixedPair.toJac_left (h : MixedPair v w x₁ y₁ z₁ x₂ y₂ z₂) : pointToJac v = .jac x₁ y₁ z₁ := by
  cases h <;> rfl

theorem MixedPair.toJac_right (h : MixedPair v w x₁ y₁ z₁ x₂ y₂ z₂) : pointToJac w = .jac x₂ y₂ z₂ := by
  cases h <;> rfl

theorem MixedPair.pointAdd_eq (h : MixedPair v w x₁ y₁ z₁ x₂ y₂ z₂) :
    pointAdd c v w = addJacobian c v x₁ y₁ z₁ x₂ y₂ z₂ := by
  cases h <;> rfl

theorem MixedPair.pointSame_eq (h : MixedPair v w x₁ y₁ z₁ x₂ y₂ z₂) :
    pointSame c v w = some (sameJacobian c x₁ y₁ z₁ x₂ y₂ z₂) := by
  cases h <;> rfl

theorem sameJacobian_iff : sameJacobian c x₁ y₁ z₁ x₂ y₂ z₂ = true ↔
    (x₁ * z₂ ^ 2 : ZMod c.p.toNat) = x₂ * z₁ ^ 2 ∧ (y₁ * z₂ ^ 3 : ZMod c.p.toNat) = y₂ * z₁ ^ 3 := by
  simp only [sameJacobian, Bool.and_eq_true, beq_iff_eq, mulMod_eq_mulMod_iff, cast_mulMod, ← pow_two, ← pow_succ,
    Nat.reduceAdd]

/-- The dispatch of `addJacobian`, its tests as equations mod p. -/
theorem addJacobian_double (hp : 0 < c.p.toNat) (hx : (x₁ * z₂ ^ 2 : ZMod c.p.toNat) = x₂ * z₁ ^ 2)
    (hy : (y₁ * z₂ ^ 3 : ZMod c.p.toNat) = y₂ * z₁ ^ 3) :
    addJacobian c v x₁ y₁ z₁ x₂ y₂ z₂ = pointDbl c v := by
  simp only [addJacobian, subMod_mulMod_eq_zero_iff hp, cast_mulMod, ← pow_two, ← pow_succ, Nat.reduceAdd]
  rw [if_pos hx.symm, if_pos hy.symm]

theorem addJacobian_vertical (hp : 0 < c.p.toNat) (hx : (x₁ * z₂ ^ 2 : ZMod c.p.toNat) = x₂ * z₁ ^ 2)
    (hy : (y₁ * z₂ ^ 3 : ZMod c.p.toNat) ≠ y₂ * z₁ ^ 3) :
    addJacobian c v x₁ y₁ z₁ x₂ y₂ z₂ = some .inf := by
  simp only [addJacobian, subMod_mulMod_eq_zero_iff hp, cast_mulMod, ← pow_two, ← pow_succ, Nat.reduceAdd]
  rw [if_pos hx.symm, if_neg hy.symm]

theorem addJacobian_sum (hp : 0 < c.p.toNat) (hx : (x₁ * z₂ ^ 2 : ZMod c.p.toNat) ≠ x₂ * z₁ ^ 2) :
    ∃ x₃ y₃ z₃ : Nat, addJacobian c v x₁ y₁ z₁ x₂ y₂ z₂ = some (.jac x₃ y₃ z₃) ∧
      JacobianSum (p := c.p.toNat) (x₁ * z₂ ^ 2) (y₁ * z₂ ^ 3) (x₂ * z₁ ^ 2 - x₁ * z₂ ^ 2)
        (y₂ * z₁ ^ 3 - y₁ * z₂ ^ 3) z₁ z₂ x₃ y₃ z₃ := by
  simp only [addJacobian, subMod_mulMod_eq_zero_iff hp, cast_mulMod, ← pow_two, ← pow_succ, Nat.reduceAdd]
  rw [if_neg hx.symm]
  refine ⟨_, _, _, rfl, ?_, ?_, ?_⟩
  · simp only [cast_subMod hp, cast_mulMod, Nat.cast_ofNat]
    ring
  · simp only [cast_subMod hp, cast_mulMod, Nat.cast_ofNat]
    ring
  · simp only [cast_subMod hp, cast_mulMod]
    ring

/-! The affine point that a point value stands for (R75) -/

theorem pointToAff_jac (hc : c.Valid) (hz : (z : ZMod c.p.toNat) ≠ 0) :
    ∃ x' y' : Nat, pointToAff c (.jac x y z) = some (.aff x' y') ∧ x' < c.p.toNat ∧ y' < c.p.toNat ∧
      (x' * z ^ 2 : ZMod c.p.toNat) = x ∧ (y' * z ^ 3 : ZMod c.p.toNat) = y := by
  have hp := hc.1.pos
  obtain ⟨i, hi, -, hmul⟩ := invMod_prime hc.1 c.p.isLt hz
  simp only [pointToAff, hi]
  refine ⟨_, _, rfl, mulMod_lt hp, mulMod_lt hp, ?_, ?_⟩
  · simp only [cast_mulMod]
    linear_combination (x : ZMod c.p.toNat) * (z * i + 1) * hmul
  · simp only [cast_mulMod]
    linear_combination (y : ZMod c.p.toNat) * ((z * i) ^ 2 + z * i + 1) * hmul

/-- The affine coordinates of a valid point from its Jacobian ones. -/
theorem pointToAff_of_toJac (hc : c.Valid) (hv : v.Ok c.p.toNat) (h : pointToJac v = .jac x y z) :
    (z : ZMod c.p.toNat) ≠ 0 ∧ ∃ x' y' : Nat, pointToAff c v = some (.aff x' y') ∧ x' < c.p.toNat ∧ y' < c.p.toNat ∧
      (x' * z ^ 2 : ZMod c.p.toNat) = x ∧ (y' * z ^ 3 : ZMod c.p.toNat) = y := by
  cases v with
  | inf => cases h
  | aff x y =>
    cases h
    exact ⟨cast_one_ne_zero hc, x, y, rfl, hv.1, hv.2, by simp, by simp⟩
  | jac x y z =>
    cases h
    obtain ⟨-, -, hz, h0⟩ := hv
    exact ⟨cast_ne_zero hz h0, pointToAff_jac hc (cast_ne_zero hz h0)⟩

end

end Sys2Proof.Machine
end

section
/-! PROOF. The commands that build, read and copy points (R78 to R85). -/

namespace Sys2Proof.Machine

open Sys2Proof

variable {p x y z : Nat}

/-- A command that ends by writing a point value changes nothing else. -/
theorem writePoint_complete (s : State) (d : RegIdx) (v : Point) :
    WritesOnlyPt s ((s.writePoint d v).complete .ok) d v.reg :=
  writePt_complete s d v.reg

/-! The stored form of a point value (R23) -/

theorem reg_aff_toNat (x y : Value) : (Point.aff x.toNat y.toNat).reg = ⟨.aff, x, y, 0#256⟩ := by
  simp [Point.reg]

theorem reg_jac_toNat (x y z : Value) : (Point.jac x.toNat y.toNat z.toNat).reg = ⟨.jac, x, y, z⟩ := by
  simp [Point.reg]

theorem reg_aff_coords (hp : p ≤ 2 ^ 256) (h : (Point.aff x y).Ok p) :
    (Point.aff x y).reg.tag = .aff ∧ (Point.aff x y).reg.x.toNat = x ∧ (Point.aff x y).reg.y.toNat = y ∧
      (Point.aff x y).reg.z = 0#256 :=
  ⟨rfl, ofNat_toNat_of_lt hp h.1, ofNat_toNat_of_lt hp h.2, rfl⟩

theorem reg_jac_coords (hp : p ≤ 2 ^ 256) (h : (Point.jac x y z).Ok p) :
    (Point.jac x y z).reg.tag = .jac ∧ (Point.jac x y z).reg.x.toNat = x ∧ (Point.jac x y z).reg.y.toNat = y ∧
      (Point.jac x y z).reg.z.toNat = z :=
  ⟨rfl, ofNat_toNat_of_lt hp h.1, ofNat_toNat_of_lt hp h.2.1, ofNat_toNat_of_lt hp h.2.2.1⟩

/-- Settles O41. -/
theorem psetiPsetgResult : Obligations.PsetiPsetgResult := by
  intro d s
  refine ⟨rfl, rfl, ⟨_, rfl, writePoint_complete s d .inf⟩, ⟨_, rfl, ?_⟩⟩
  rw [← reg_aff_toNat]
  exact writePoint_complete s d _

/-- Settles O42. -/
theorem psetaResult : Obligations.PsetaResult := by
  intro d a b s hc
  have hmod (x : Nat) : x % s.prime < s.prime := Nat.mod_lt x hc.1.1.pos
  exact ⟨_, _, rfl, writePoint_complete s d _, reg_aff_coords (prime_lt s).le ⟨hmod _, hmod _⟩⟩

/-- Settles O43, by the test of the reduced Z. -/
theorem psetjResult : Obligations.PsetjResult := by
  intro d a b c s hc
  have hmod (x : Nat) : x % s.prime < s.prime := Nat.mod_lt x hc.1.1.pos
  refine ⟨rfl, ?_⟩
  by_cases h : s.natF c % s.prime = 0
  · exact ⟨_, _, exec_psetj_inf h, writePoint_complete s d .inf, (if_pos h).mpr rfl⟩
  · refine ⟨_, _, exec_psetj_jac h, writePoint_complete s d _, (if_neg h).mpr ?_⟩
    exact reg_jac_coords (prime_lt s).le ⟨hmod _, hmod _, hmod _, h⟩

/-- Settles O44. -/
theorem pgetResults : Obligations.PgetResults := fun d a s =>
  ⟨⟨_, rfl, writeF_complete s d (s.readPt a).x⟩, ⟨_, rfl, writeF_complete s d (s.readPt a).y⟩,
    ⟨_, rfl, writeF_complete s d (s.readPt a).z⟩⟩

/-- Settles O45. -/
theorem pmovResult : Obligations.PmovResult := by
  intro d a s
  refine ⟨rfl, _, rfl, writePt_complete s d (s.readPt a), ?_⟩
  rintro rfl r
  rw [State.complete_readPt, readPt_writePt]
  split
  · next h => rw [h]
  · rfl

end Sys2Proof.Machine
end

section
/-! PROOF. The commands that compute on points (R86 to R91). -/

namespace Sys2Proof.Machine

open Sys2Proof

variable {c : Curve} {r u v : PointReg} {s : State} {q : Point}

/-! The point value of a register of each form (R16, R22) -/

theorem val_of_tag_inf (h : r.tag = .inf) : r.val = .inf := by
  rw [PointReg.val, h]

theorem val_of_tag_aff (h : r.tag = .aff) : r.val = .aff r.x.toNat r.y.toNat := by
  rw [PointReg.val, h]

theorem val_of_tag_jac (h : r.tag = .jac) : r.val = .jac r.x.toNat r.y.toNat r.z.toNat := by
  rw [PointReg.val, h]

theorem toNat_ne_zero {x : Value} (h : x ≠ 0#256) : x.toNat ≠ 0 := by
  rwa [← BitVec.toNat_zero, Ne, ← BitVec.toNat_eq]

/-- Two registers that are no identities and not both affine, with their Jacobian coordinates. -/
theorem mixedPair_val (hu : u.tag ≠ .inf) (hv : v.tag ≠ .inf) (h : ¬(u.tag = .aff ∧ v.tag = .aff)) :
    MixedPair u.val v.val u.x.toNat u.y.toNat (if u.tag = .aff then 1 else u.z.toNat)
      v.x.toNat v.y.toNat (if v.tag = .aff then 1 else v.z.toNat) := by
  cases hut : u.tag with
  | inf => exact absurd hut hu
  | aff =>
    cases hvt : v.tag with
    | inf => exact absurd hvt hv
    | aff => exact absurd ⟨hut, hvt⟩ h
    | jac =>
      rw [val_of_tag_aff hut, val_of_tag_jac hvt]
      exact .affJac
  | jac =>
    cases hvt : v.tag with
    | inf => exact absurd hvt hv
    | aff =>
      rw [val_of_tag_jac hut, val_of_tag_aff hvt]
      exact .jacAff
    | jac =>
      rw [val_of_tag_jac hut, val_of_tag_jac hvt]
      exact .jacJac

/-! PNEG, PJAC -/

/-- The negative of a stored point is stored with its Y alone replaced. -/
theorem reg_pointNeg_val {p : Nat} (hr : r.Ok p) (h : r.tag ≠ .inf) : (pointNeg c r.val).reg =
    { r with y := BitVec.ofNat 256 (subMod c.p.toNat c.p.toNat r.y.toNat) } := by
  obtain ⟨tag, x, y, z⟩ := r
  obtain ⟨-, -, -, hz⟩ := hr
  cases tag with
  | inf => exact absurd rfl h
  | aff =>
    obtain rfl : z = 0#256 := hz
    simp [PointReg.val, pointNeg, Point.reg]
  | jac => simp [PointReg.val, pointNeg, Point.reg]

/-- Settles O46. -/
theorem pnegResult : Obligations.PnegResult := by
  intro d a s hc hp
  refine ⟨_, _, exec_pneg d a s, writePoint_complete s d _, ?_⟩
  rw [State.pointOf]
  by_cases h : (s.readPt a).tag = .inf
  · rw [val_of_tag_inf h, if_pos h, h]
    exact ⟨rfl, rfl⟩
  · obtain ⟨-, hy, -⟩ := hp a
    have hy' : subMod s.prime s.prime (s.readPt a).y.toNat < s.prime := subMod_lt hc.1.1.pos
    rw [reg_pointNeg_val (hp a) h, if_neg h]
    exact ⟨rfl, rfl, (ofNat_toNat_of_lt (prime_lt s).le hy').trans (subMod_of_le hy.le), rfl⟩

/-- Settles O52, by the form of the operand. -/
theorem pjacResult : Obligations.PjacResult := by
  intro d a s _ hp
  refine ⟨_, _, exec_pjac d a s, writePoint_complete s d _, ?_⟩
  rw [State.pointOf]
  have hval := reg_val (hp a)
  cases h : (s.readPt a).tag with
  | inf =>
    rw [val_of_tag_inf h] at hval ⊢
    exact hval
  | aff =>
    rw [val_of_tag_aff h]
    exact reg_jac_toNat _ _ 1#256
  | jac =>
    rw [val_of_tag_jac h] at hval ⊢
    exact hval

/-! PONC -/

theorem exec_ponc (a : RegIdx) (s : State) :
    exec (.ponc a) s = .next ((s.setOnc (pointOnCurve s.config.curve (s.pointOf a))).complete .ok) := rfl

/-- Settles O50, by the form of the operand. -/
theorem poncResult : Obligations.PoncResult := by
  intro a s _
  obtain ⟨hcomp, hf, hpt⟩ :=
    complete_withFlags s s.cmp s.zf s.bitf (pointOnCurve s.config.curve (s.pointOf a))
  refine ⟨_, exec_ponc a s, hcomp, hf, hpt, rfl, rfl, rfl, ?_⟩
  rw [State.complete_onc, State.setOnc_onc, State.pointOf]
  cases h : (s.readPt a).tag with
  | inf =>
    rw [val_of_tag_inf h]
    rfl
  | aff =>
    rw [val_of_tag_aff h]
    exact pointOnCurve_aff_iff
  | jac =>
    rw [val_of_tag_jac h]
    exact pointOnCurve_jac_iff

/-! PDBL, PADD, PAFF -/

/-- A command that ends in what a point function answers, on an accepted curve, stores a valid register and changes
nothing else. -/
theorem writes_of_finishPoint {i : Instr} {d : RegIdx} {o : Option Point} (hc : s.config.Valid)
    (h : exec i s = .next (s.finishPoint d o)) (hq : o = some q) (hok : q.Ok s.prime) :
    ∃ t, exec i s = .next t ∧ WritesOnlyPt s t d q.reg ∧ q.reg.Ok s.prime :=
  ⟨_, exec_of_finishPoint h hq, writePoint_complete s d q, reg_ok_of_curve hc.1 hok⟩

/-- Settles O51, by the form of the operand. -/
theorem paffResult : Obligations.PaffResult := by
  intro d a s hc hp
  obtain ⟨q, hq, hok⟩ := pointToAff_ok hc.1 (pointOf_ok hp a)
  obtain ⟨t, ht, hw, hreg⟩ := writes_of_finishPoint hc (exec_paff d a s) hq hok
  refine ⟨t, q.reg, ht, hw, hreg, ?_⟩
  rw [State.pointOf] at hq
  have hval := reg_val (hp a)
  cases h : (s.readPt a).tag with
  | inf =>
    rw [val_of_tag_inf h] at hq hval
    cases hq
    exact hval
  | aff =>
    rw [val_of_tag_aff h] at hq hval
    cases hq
    exact hval
  | jac =>
    obtain ⟨-, x', y', hq', -, -, hx, hy⟩ :=
      pointToAff_of_toJac hc.1 (pointOf_ok hp a) (congrArg pointToJac (val_of_tag_jac h))
    cases hq.symm.trans hq'
    obtain ⟨htag, hx', hy', -⟩ := reg_aff_coords (prime_lt s).le hok
    rw [if_pos rfl, hx', hy']
    exact ⟨htag, hx, hy⟩

theorem pointDbl_val_of_y_eq_zero (h : r.y = 0#256) : pointDbl c r.val = some .inf := by
  have hy : r.y.toNat = 0 := by rw [h, BitVec.toNat_zero]
  cases ht : r.tag with
  | inf => rw [val_of_tag_inf ht, pointDbl]
  | aff => rw [val_of_tag_aff ht, pointDbl, if_pos hy]
  | jac => rw [val_of_tag_jac ht, pointDbl, if_pos hy]

/-- Settles O47, by the form of the operand and the test y = 0. -/
theorem pdblResult : Obligations.PdblResult := by
  intro d a s hc hp
  obtain ⟨q, hq, hok⟩ := pointDbl_ok hc.1 (pointOf_ok hp a)
  obtain ⟨t, ht, hw, hreg⟩ := writes_of_finishPoint hc (exec_pdbl d a s) hq hok
  refine ⟨t, q.reg, ht, hw, hreg, ?_⟩
  rw [State.pointOf] at hq
  have hinf (hy : (s.readPt a).y = 0#256) : q.reg = .identity := by
    rw [pointDbl_val_of_y_eq_zero hy] at hq
    cases hq
    rfl
  cases h : (s.readPt a).tag with
  | inf =>
    rw [val_of_tag_inf h] at hq
    cases hq
    rfl
  | aff =>
    by_cases hy : (s.readPt a).y = 0#256
    · exact (if_pos hy).mpr (hinf hy)
    · rw [val_of_tag_aff h] at hq
      obtain ⟨x₃, y₃, rfl, hdbl⟩ := pointDbl_aff hc.1 (toNat_ne_zero hy) hq
      obtain ⟨htag, hx₃, hy₃, -⟩ := reg_aff_coords (prime_lt s).le hok
      dsimp only
      rw [if_neg hy, hx₃, hy₃]
      exact ⟨htag, hdbl⟩
  | jac =>
    by_cases hy : (s.readPt a).y = 0#256
    · exact (if_pos hy).mpr (hinf hy)
    · rw [val_of_tag_jac h] at hq
      obtain ⟨x₃, y₃, z₃, rfl, hdbl⟩ := pointDbl_jac hc.1 (toNat_ne_zero hy) hq
      obtain ⟨htag, hx₃, hy₃, hz₃⟩ := reg_jac_coords (prime_lt s).le hok
      dsimp only
      rw [if_neg hy, hx₃, hy₃, hz₃]
      exact ⟨htag, hdbl⟩

/-- The register `r` holds the double of the point `v`. -/
def HoldsDouble (c : Curve) (v : Point) (r : PointReg) : Prop := ∃ w, pointDbl c v = some w ∧ r = w.reg

/-- What is stored for two affine operands (R73 steps 3 and 4). -/
theorem reg_pointAdd_aff (hc : c.Valid) (hu : u.tag = .aff) (hv : v.tag = .aff)
    (hq : pointAdd c u.val v.val = some q) (hok : q.Ok c.p.toNat) :
    if u.x = v.x then
      if u.y = v.y then HoldsDouble c u.val q.reg else q.reg = .identity
    else q.reg.tag = .aff ∧ ChordSum (p := c.p.toNat) u.x.toNat u.y.toNat v.x.toNat v.y.toNat q.reg.x.toNat
      q.reg.y.toNat := by
  rw [val_of_tag_aff hu, val_of_tag_aff hv] at hq
  by_cases hx : u.x = v.x
  · rw [if_pos hx]
    rw [← hx] at hq
    by_cases hy : u.y = v.y
    · rw [← hy, pointAdd_aff_self] at hq
      exact (if_pos hy).mpr ⟨q, val_of_tag_aff hu ▸ hq, rfl⟩
    · rw [pointAdd_aff_vertical (mt BitVec.eq_of_toNat_eq hy)] at hq
      cases hq
      exact (if_neg hy).mpr rfl
  · obtain ⟨x₃, y₃, rfl, hsum⟩ := pointAdd_aff hc (mt BitVec.eq_of_toNat_eq hx) hq
    obtain ⟨htag, hx₃, hy₃, -⟩ := reg_aff_coords c.p.isLt.le hok
    rw [if_neg hx, hx₃, hy₃]
    exact ⟨htag, hsum⟩

/-- What is stored for a pair with a Jacobian operand, by the differences h and r (R73 step 5). -/
theorem MixedPair.reg_pointAdd {w w' : Point} {x₁ y₁ z₁ x₂ y₂ z₂ : Nat} {h r : ZMod c.p.toNat} (hc : c.Valid)
    (hpair : MixedPair w w' x₁ y₁ z₁ x₂ y₂ z₂) (hq : pointAdd c w w' = some q) (hok : q.Ok c.p.toNat)
    (hh : h = x₂ * z₁ ^ 2 - x₁ * z₂ ^ 2) (hr : r = y₂ * z₁ ^ 3 - y₁ * z₂ ^ 3) :
    (h = 0 → r = 0 → HoldsDouble c w q.reg) ∧ (h = 0 → r ≠ 0 → q.reg = .identity) ∧
      (h ≠ 0 → q.reg.tag = .jac ∧ JacobianSum (x₁ * z₂ ^ 2 : ZMod c.p.toNat) (y₁ * z₂ ^ 3) h r z₁ z₂
        q.reg.x.toNat q.reg.y.toNat q.reg.z.toNat) := by
  have hp := hc.1.pos
  rw [hpair.pointAdd_eq] at hq
  subst hh hr
  refine ⟨fun hh hr => ?_, fun hh hr => ?_, fun hh => ?_⟩
  · rw [addJacobian_double hp (sub_eq_zero.1 hh).symm (sub_eq_zero.1 hr).symm] at hq
    exact ⟨q, hq, rfl⟩
  · rw [addJacobian_vertical hp (sub_eq_zero.1 hh).symm (sub_ne_zero.1 hr).symm] at hq
    cases hq
    rfl
  · obtain ⟨x₃, y₃, z₃, hq', hsum⟩ := addJacobian_sum (v := w) hp (sub_ne_zero.1 hh).symm
    cases hq.symm.trans hq'
    obtain ⟨htag, hx₃, hy₃, hz₃⟩ := reg_jac_coords c.p.isLt.le hok
    rw [hx₃, hy₃, hz₃]
    exact ⟨htag, hsum⟩

/-- Settles O48: the cases of R73 in their order. -/
theorem paddResult : Obligations.PaddResult := by
  intro d a b s hc hp
  obtain ⟨q, hq, hok⟩ := pointAdd_ok hc.1 (pointOf_ok hp a) (pointOf_ok hp b)
  obtain ⟨t, ht, hw, hreg⟩ := writes_of_finishPoint hc (exec_padd d a b s) hq hok
  refine ⟨t, q.reg, ht, hw, hreg, ?_⟩
  rw [State.pointOf, State.pointOf] at hq
  have hu := reg_val (hp a)
  have hv := reg_val (hp b)
  generalize s.readPt a = u at *
  generalize s.readPt b = v at *
  dsimp only
  by_cases hui : u.tag = .inf
  · rw [val_of_tag_inf hui, pointAdd_inf_left, Option.some.injEq] at hq
    rw [if_pos hui, ← hq]
    exact hv
  by_cases hvi : v.tag = .inf
  · rw [val_of_tag_inf hvi, pointAdd_inf_right, Option.some.injEq] at hq
    rw [if_neg hui, if_pos hvi, ← hq]
    exact hu
  rw [if_neg hui, if_neg hvi]
  by_cases haff : u.tag = .aff ∧ v.tag = .aff
  · rw [if_pos haff]
    exact reg_pointAdd_aff hc.1 haff.1 haff.2 hq hok
  · have hcast (r : PointReg) : (if r.tag = .aff then 1 else (r.z.toNat : ZMod s.prime)) =
        (if r.tag = .aff then 1 else r.z.toNat : Nat) := by
      rw [Nat.cast_ite, Nat.cast_one]
    rw [if_neg haff, hcast u, hcast v]
    exact ⟨_, _, _, _, _, _, rfl, rfl, rfl, rfl, rfl, rfl,
      (mixedPair_val hui hvi haff).reg_pointAdd hc.1 hq hok rfl rfl⟩

end Sys2Proof.Machine
end

section
/-! PROOF. PADD doubles, answers INF or takes the chord sum, whatever the operands' forms (R72, R73). -/

namespace Sys2Proof.Machine

open Sys2Proof

variable {c : Curve} {v w : Point} {x₁ y₁ z₁ x₂ y₂ z₂ : Nat}

/-- What PADD answers on two points that are no identities, by the affine points they stand for (R72, R73). -/
def AddsAffinePoints (c : Curve) (v w : Point) : Prop :=
  ∃ e x1 y1 x2 y2, pointSame c v w = some e ∧ pointToAff c v = some (.aff x1 y1) ∧
    pointToAff c w = some (.aff x2 y2) ∧ (e = true ↔ x1 = x2 ∧ y1 = y2) ∧
    (e = true → pointAdd c v w = pointDbl c v) ∧
    (e = false → x1 = x2 → pointAdd c v w = some .inf) ∧
    (e = false → x1 ≠ x2 → ∃ q x3 y3, pointAdd c v w = some q ∧ pointToAff c q = some (.aff x3 y3) ∧
      ChordSum (p := c.p.toNat) x1 y1 x2 y2 x3 y3)

theorem addsAffinePoints_aff (hc : c.Valid) (hv : (Point.aff x₁ y₁).Ok c.p.toNat)
    (hw : (Point.aff x₂ y₂).Ok c.p.toNat) : AddsAffinePoints c (.aff x₁ y₁) (.aff x₂ y₂) := by
  have hsame : (x₁ == x₂ && y₁ == y₂) = true ↔ x₁ = x₂ ∧ y₁ = y₂ := by
    rw [Bool.and_eq_true, beq_iff_eq, beq_iff_eq]
  refine ⟨x₁ == x₂ && y₁ == y₂, x₁, y₁, x₂, y₂, rfl, rfl, rfl, hsame, fun he => ?_, fun he hx => ?_, fun _ hx => ?_⟩
  · obtain ⟨rfl, rfl⟩ := hsame.1 he
    exact pointAdd_aff_self
  · subst hx
    exact pointAdd_aff_vertical fun hy => by simp [hy] at he
  · obtain ⟨q, hq, -⟩ := pointAdd_ok hc hv hw
    obtain ⟨x₃, y₃, rfl, hsum⟩ := pointAdd_aff hc hx hq
    exact ⟨_, x₃, y₃, hq, rfl, hsum⟩

/-- Jacobian coordinates of one denominator each agree crosswise exactly when the affine coordinates agree. -/
theorem cross_mul_eq_iff {p a b k : Nat} [Fact p.Prime] {A B u v : ZMod p} (ha : a < p) (hb : b < p)
    (hu : u ≠ 0) (hv : v ≠ 0) (hA : a * u ^ k = A) (hB : b * v ^ k = B) : A * v ^ k = B * u ^ k ↔ a = b := by
  have hne : u ^ k * v ^ k ≠ 0 := mul_ne_zero (pow_ne_zero k hu) (pow_ne_zero k hv)
  rw [← hA, ← hB, mul_assoc, mul_assoc, mul_comm (v ^ k), mul_left_inj' hne]
  exact ⟨eq_of_cast_eq ha hb, fun h => h ▸ rfl⟩

theorem addsAffinePoints_mixed (hc : c.Valid) (hv : v.Ok c.p.toNat) (hw : w.Ok c.p.toNat)
    (h : MixedPair v w x₁ y₁ z₁ x₂ y₂ z₂) : AddsAffinePoints c v w := by
  have hp := hc.1.pos
  have := Fact.mk hc.1
  obtain ⟨hz₁, a₁, b₁, hv', ha₁, hb₁, hx₁, hy₁⟩ := pointToAff_of_toJac hc hv h.toJac_left
  obtain ⟨hz₂, a₂, b₂, hw', ha₂, hb₂, hx₂, hy₂⟩ := pointToAff_of_toJac hc hw h.toJac_right
  have hx := cross_mul_eq_iff ha₁ ha₂ hz₁ hz₂ hx₁ hx₂
  have hy := cross_mul_eq_iff hb₁ hb₂ hz₁ hz₂ hy₁ hy₂
  have hsame : sameJacobian c x₁ y₁ z₁ x₂ y₂ z₂ = true ↔ a₁ = a₂ ∧ b₁ = b₂ := by
    rw [sameJacobian_iff, hx, hy]
  refine ⟨_, a₁, b₁, a₂, b₂, h.pointSame_eq, hv', hw', hsame, ?_, ?_, ?_⟩
  · intro he
    rw [h.pointAdd_eq]
    exact addJacobian_double hp (hx.2 (hsame.1 he).1) (hy.2 (hsame.1 he).2)
  · intro he hxe
    rw [h.pointAdd_eq]
    refine addJacobian_vertical hp (hx.2 hxe) fun hye => ?_
    simp [hsame.2 ⟨hxe, hy.1 hye⟩] at he
  · intro he hxe
    obtain ⟨x₃, y₃, z₃, hq, hsum⟩ := addJacobian_sum (v := v) hp (mt hx.1 hxe)
    rw [← h.pointAdd_eq] at hq
    obtain ⟨q, hq', hok⟩ := pointAdd_ok hc hv hw
    obtain rfl : _ = q := Option.some.inj (hq.symm.trans hq')
    obtain ⟨hz, a₃, b₃, haff, -, -, hx₃, hy₃⟩ := pointToAff_of_toJac hc hok rfl
    rw [← hx₁, ← hy₁, ← hx₂, ← hy₂] at hsum
    exact ⟨_, a₃, b₃, hq, haff, hsum.chordSum hz hx₃ hy₃⟩

/-- Settles O49. -/
theorem samePointsDouble : Obligations.SamePointsDouble := by
  intro c v w hc hv hw hv0 hw0
  cases v with
  | inf => exact absurd rfl hv0
  | aff x₁ y₁ =>
    cases w with
    | inf => exact absurd rfl hw0
    | aff x₂ y₂ => exact addsAffinePoints_aff hc hv hw
    | jac x₂ y₂ z₂ => exact addsAffinePoints_mixed hc hv hw .affJac
  | jac x₁ y₁ z₁ =>
    cases w with
    | inf => exact absurd rfl hw0
    | aff x₂ y₂ => exact addsAffinePoints_mixed hc hv hw .jacAff
    | jac x₂ y₂ z₂ => exact addsAffinePoints_mixed hc hv hw .jacJac

end Sys2Proof.Machine
end

section
/-! PROOF. The wNAF encoder: each digit is the signed residue of the working copy, and the digits sum to the scalar
(R92, R93). -/

namespace Sys2Proof.Machine

open Sys2Proof

variable {w kk l m : Nat}

/-! One digit -/

theorem wnafDigit_even (h : kk % 2 = 0) : wnafDigit w kk = 0 :=
  if_neg (by omega)

/-- An odd working copy gives its signed residue modulo 2^W, which is odd. -/
theorem wnafDigit_odd (hw : 2 ≤ w) (h : kk % 2 = 1) :
    wnafDigit w kk % 2 = 1 ∧ (wnafDigit w kk).natAbs < 2 ^ (w - 1) ∧
      ∃ q : Nat, (kk : Int) = 2 ^ w * q + wnafDigit w kk := by
  have hfull : 2 * 2 ^ (w - 1) = 2 ^ w := mul_pow_sub_one (by omega) 2
  have hhalf : 2 * 2 ^ (w - 1 - 1) = 2 ^ (w - 1) := mul_pow_sub_one (by omega) 2
  have hodd : kk % 2 ^ w % 2 = 1 := by rwa [Nat.mod_mod_of_dvd _ (dvd_pow_self 2 (by omega))]
  have hlt : kk % 2 ^ w < 2 ^ w := Nat.mod_lt _ (by positivity)
  have hdiv : ((2 ^ w * (kk / 2 ^ w) + kk % 2 ^ w : Nat) : Int) = kk := by rw [Nat.div_add_mod]
  push_cast at hdiv
  simp only [wnafDigit, if_pos h]
  split
  · refine ⟨by omega, by omega, kk / 2 ^ w + 1, ?_⟩
    push_cast
    linear_combination -hdiv
  · refine ⟨by omega, by omega, kk / 2 ^ w, ?_⟩
    push_cast
    linear_combination -hdiv

/-- What is left of an odd working copy is a multiple of 2^(W−1), whose digit was taken off. -/
theorem wnafNext_odd (hw : 2 ≤ w) (h : kk % 2 = 1) :
    ∃ q : Nat, wnafNext w kk = 2 ^ (w - 1) * q ∧ (kk : Int) = 2 ^ w * q + wnafDigit w kk := by
  obtain ⟨-, -, q, hq⟩ := wnafDigit_odd hw h
  refine ⟨q, ?_, hq⟩
  have hpow : (2 : Int) * 2 ^ (w - 1) = 2 ^ w := mul_pow_sub_one (by omega) 2
  have hsub : (kk : Int) - wnafDigit w kk = 2 * (2 ^ (w - 1) * q : Nat) := by
    push_cast
    linear_combination hq - q * hpow
  rw [wnafNext, hsub, Int.mul_ediv_cancel_left _ two_ne_zero, Int.toNat_natCast]

theorem wnafNext_even (h : kk % 2 = 0) : wnafNext w kk = kk / 2 := by
  rw [wnafNext, wnafDigit_even h]
  omega

/-- The digit and the next working copy are the working copy (R92). -/
theorem wnafDigit_add_two_mul_next (hw : 2 ≤ w) (kk : Nat) : wnafDigit w kk + 2 * (wnafNext w kk : Int) = kk := by
  obtain h | h := Nat.mod_two_eq_zero_or_one kk
  · rw [wnafDigit_even h, wnafNext_even h]
    omega
  · obtain ⟨q, hnext, hq⟩ := wnafNext_odd hw h
    have hpow : (2 : Int) * 2 ^ (w - 1) = 2 ^ w := mul_pow_sub_one (by omega) 2
    rw [hnext]
    push_cast
    linear_combination -hq + q * hpow

/-- A multiple of 2^n whose double is less than 2^n above 2^(m+1) is at most 2^m. -/
theorem two_pow_mul_le_two_pow {n q : Nat} (h : 2 * (2 ^ n * q) < 2 ^ (m + 1) + 2 ^ n) : 2 ^ n * q ≤ 2 ^ m := by
  have hdvd : 2 ^ n ∣ 2 * (2 ^ n * q) := (dvd_mul_right _ _).mul_left 2
  obtain hnm | hmn := le_or_gt n (m + 1)
  · have := Nat.le_of_lt_add_of_dvd h hdvd (pow_dvd_pow 2 hnm)
    omega
  · have hle : 2 ^ (m + 1) ≤ 2 ^ n := Nat.pow_le_pow_right two_pos hmn.le
    have hzero : 2 ^ n * q = 0 := Nat.eq_zero_of_dvd_of_lt (dvd_mul_right _ _) (by omega)
    rw [hzero]
    exact Nat.zero_le _

/-- A power of two bounds the working copy, and one digit halves it. -/
theorem wnafNext_le_two_pow (hw : 2 ≤ w) (h : kk ≤ 2 ^ (m + 1)) : wnafNext w kk ≤ 2 ^ m := by
  obtain he | ho := Nat.mod_two_eq_zero_or_one kk
  · rw [wnafNext_even he]
    omega
  · obtain ⟨-, hd, -⟩ := wnafDigit_odd hw ho
    obtain ⟨q, hnext, -⟩ := wnafNext_odd hw ho
    have hsum := wnafDigit_add_two_mul_next hw kk
    rw [hnext] at hsum ⊢
    exact two_pow_mul_le_two_pow (by omega)

@[simp] theorem wnafDigit_zero (w : Nat) : wnafDigit w 0 = 0 := wnafDigit_even rfl

@[simp] theorem wnafNext_zero (w : Nat) : wnafNext w 0 = 0 := wnafNext_even rfl

theorem wnafDigit_one (hw : 2 ≤ w) : wnafDigit w 1 = 1 := by
  have hfull : 1 % 2 ^ w = 1 := Nat.mod_eq_of_lt (Nat.one_lt_two_pow (by omega))
  have hhalf : ¬ 2 ^ (w - 1) ≤ 1 := (Nat.one_lt_two_pow (by omega)).not_ge
  simp [wnafDigit, hfull, hhalf]

theorem wnafNext_one (hw : 2 ≤ w) : wnafNext w 1 = 0 := by
  rw [wnafNext, wnafDigit_one hw]
  rfl

/-! All digits -/

theorem wnafDigits_zero (w l : Nat) : wnafDigits w l 0 = List.replicate l 0 := by
  induction l with
  | zero => rfl
  | succ l ih => rw [wnafDigits, wnafDigit_zero, wnafNext_zero, ih, List.replicate_succ]

theorem wnafDigits_one (hw : 2 ≤ w) (l : Nat) : wnafDigits w (l + 1) 1 = 1 :: List.replicate l 0 := by
  rw [wnafDigits, wnafDigit_one hw, wnafNext_one hw, wnafDigits_zero]

theorem wnafDigits_length (w l kk : Nat) : (wnafDigits w l kk).length = l := by
  induction l generalizing kk with
  | zero => rfl
  | succ l ih => rw [wnafDigits, List.length_cons, ih]

/-- The range of a digit (R93). -/
def IsWnafDigit (w : Nat) (d : Int) : Prop := d = 0 ∨ (d % 2 = 1 ∧ d.natAbs ≤ 2 ^ (w - 1) - 1)

theorem wnafDigit_isWnafDigit (hw : 2 ≤ w) (kk : Nat) : IsWnafDigit w (wnafDigit w kk) := by
  obtain h | h := Nat.mod_two_eq_zero_or_one kk
  · exact .inl (wnafDigit_even h)
  · obtain ⟨hodd, hlt, -⟩ := wnafDigit_odd hw h
    exact .inr ⟨hodd, Nat.le_sub_one_of_lt hlt⟩

theorem isWnafDigit_of_mem (hw : 2 ≤ w) : ∀ d ∈ wnafDigits w l kk, IsWnafDigit w d := by
  induction l generalizing kk with
  | zero => exact fun _ hd => nomatch hd
  | succ l ih => exact List.forall_mem_cons.2 ⟨wnafDigit_isWnafDigit hw kk, ih⟩

theorem digitSum_wnafDigits (hw : 2 ≤ w) (l kk : Nat) :
    digitSum (wnafDigits w l kk) = (kk : Int) - (wnafRem w l kk : Int) * 2 ^ l := by
  induction l generalizing kk with
  | zero => simp [wnafDigits, wnafRem, digitSum]
  | succ l ih =>
    rw [wnafDigits, wnafRem, digitSum, ih]
    linear_combination wnafDigit_add_two_mul_next hw kk

@[simp] theorem wnafRem_zero (w l : Nat) : wnafRem w l 0 = 0 := by
  induction l with
  | zero => rfl
  | succ l ih => rw [wnafRem, wnafNext_zero, ih]

theorem wnafRem_le_two_pow (hw : 2 ≤ w) (h : kk ≤ 2 ^ m) (l : Nat) : wnafRem w l kk ≤ 2 ^ m := by
  induction l generalizing kk with
  | zero => exact h
  | succ l ih => exact ih (wnafNext_le_two_pow hw (h.trans (Nat.pow_le_pow_right two_pos m.le_succ)))

theorem wnafRem_lt_two_pow {n : Nat} (hw : 2 ≤ w) (h : kk < 2 ^ m) (hmn : m < n) (l : Nat) :
    wnafRem w l kk < 2 ^ n :=
  (wnafRem_le_two_pow hw h.le l).trans_lt (Nat.pow_lt_pow_right one_lt_two hmn)

/-- One digit more than the bits of the bound leaves nothing. -/
theorem wnafRem_eq_zero (hw : 2 ≤ w) (h : kk ≤ 2 ^ m) (hl : m < l) : wnafRem w l kk = 0 := by
  induction l generalizing kk m with
  | zero => omega
  | succ l ih =>
    cases m with
    | zero =>
      obtain rfl | rfl : kk = 0 ∨ kk = 1 := by omega
      · exact wnafRem_zero w (l + 1)
      · rw [wnafRem, wnafNext_one hw, wnafRem_zero]
    | succ m => exact ih (wnafNext_le_two_pow hw h) (Nat.lt_of_succ_lt_succ hl)

/-- 257 digits stand for every 256-bit scalar (R93). -/
theorem digitSum_wnafDigits_eq (hw : 2 ≤ w) (hk : kk < 2 ^ 256) (hl : 257 ≤ l) :
    digitSum (wnafDigits w l kk) = kk := by
  rw [digitSum_wnafDigits hw, wnafRem_eq_zero hw hk.le hl, Nat.cast_zero, zero_mul, sub_zero]

/-- Settles O54: a digit and the next working copy make up the working copy, and each digit halves its bound 2^256. -/
theorem wnafDigitsRepresentScalar : Obligations.WnafDigitsRepresentScalar := fun w l k hw _ hk =>
  ⟨wnafDigits_length w l k, isWnafDigit_of_mem hw, digitSum_wnafDigits hw l k,
    wnafRem_lt_two_pow (m := 256) (n := 257) hw hk (by decide),
    fun hl => ⟨wnafRem_eq_zero hw hk.le hl, digitSum_wnafDigits_eq hw hk hl⟩⟩

end Sys2Proof.Machine
end

section
/-! PROOF. The scalar multiplier computes the digits' multiple of its point, for every reading of points in a group that
the point functions respect (R94 to R96). -/

namespace Sys2Proof.Machine

open Sys2Proof

variable {cfg : Config} {c : Curve} {v t d2 q : Point} {ts : List Point} {x y : Scratch} {n k w : Nat}

/-! What the scratch run computed when it answers -/

/-- The table is the odd multiples from the promoted point on. With W = 2 it has that one entry, and the double is not
needed (R94). -/
theorem buildTable_eq_some (h : x.buildTable cfg v = some y) : y.digits = x.digits ∧
    ∃ d2, pointDbl cfg.curve (pointToJac v) = some d2 ∧
      tableFrom cfg.curve d2 (2 ^ (cfg.wnafW - 2) - 1) (pointToJac v) = some y.table := by
  obtain ⟨d2, hd2, -⟩ := pointDbl_jacobian (c := cfg.curve) (pointToJac_isJacobian (v := v))
  simp only [Scratch.buildTable, hd2] at h
  split at h
  · split at h
    next => cases h
    next ts hts =>
      cases h
      exact ⟨rfl, d2, hd2, hts⟩
  · next hone =>
    cases h
    rw [Nat.sub_eq_zero_of_le (not_lt.1 hone)]
    exact ⟨rfl, d2, hd2, rfl⟩

/-- The accumulator is the loop's answer on the table of the promoted point and the digits of k (R98). -/
theorem multiply_eq_some (h : x.multiply cfg v k = some y) :
    ∃ d2 ts, pointDbl cfg.curve (pointToJac v) = some d2 ∧
      tableFrom cfg.curve d2 (2 ^ (cfg.wnafW - 2) - 1) (pointToJac v) = some ts ∧
      multiplyLoop cfg.curve ts (wnafDigits cfg.wnafW cfg.wnafL k) = some y.acc := by
  simp only [Scratch.multiply] at h
  split at h
  next => cases h
  next z hz =>
    obtain ⟨hdigits, d2, hd2, hts⟩ := buildTable_eq_some hz
    simp only [Scratch.runLoop] at h
    split at h
    next => cases h
    next acc hacc =>
      cases h
      exact ⟨d2, _, hd2, hts, by rw [← hacc, hdigits]; rfl⟩

theorem tableFrom_succ_eq_some (h : tableFrom c d2 (n + 1) t = some ts) :
    ∃ t' ts', pointAdd c t d2 = some t' ∧ tableFrom c d2 n t' = some ts' ∧ ts = t :: ts' := by
  simp only [tableFrom] at h
  split at h
  next => cases h
  next t' ht' =>
    split at h
    next => cases h
    next ts' hts' =>
      cases h
      exact ⟨t', ts', ht', hts', rfl⟩

theorem tableFrom_head (h : tableFrom c d2 n t = some ts) : ts.getD 0 .inf = t := by
  cases n with
  | zero =>
    cases h
    rfl
  | succ n =>
    obtain ⟨t', ts', -, -, rfl⟩ := tableFrom_succ_eq_some h
    rfl

theorem multiplyLoop_cons_eq_some {d : Int} {ds : List Int} (h : multiplyLoop c ts (d :: ds) = some q) :
    ∃ acc acc2, multiplyLoop c ts ds = some acc ∧ pointDbl c acc = some acc2 ∧
      pointAdd c acc2 (selectEntry c ts d) = some q := by
  simp only [multiplyLoop] at h
  split at h
  next => cases h
  next acc hacc =>
    split at h
    next => cases h
    next acc2 hacc2 => exact ⟨acc, acc2, hacc, hacc2, h⟩

/-- Digits 0 leave the accumulator at the identity it starts from. -/
theorem multiplyLoop_replicate_zero (c : Curve) (ts : List Point) (l : Nat) :
    multiplyLoop c ts (List.replicate l 0) = some .inf := by
  induction l with
  | zero => rfl
  | succ l ih =>
    rw [List.replicate_succ, multiplyLoop, ih]
    rfl

/-- A single digit 1 takes the first table entry exactly. -/
theorem multiplyLoop_one (c : Curve) (ts : List Point) (l : Nat) :
    multiplyLoop c ts (1 :: List.replicate l 0) = some (ts.getD 0 .inf) := by
  rw [multiplyLoop, multiplyLoop_replicate_zero]
  exact pointAdd_inf_left

/-! Reading points in a group -/

variable {A : Type} [AddCommGroup A] {R : Point → A → Prop} {e a b : A}

/-- `R` reads point values as elements of a group, and what neg, dbl and add answer as negatives, doubles and sums. -/
structure ReadsInGroup (c : Curve) (R : Point → A → Prop) : Prop where
  inf : R .inf 0
  neg : ∀ v e, R v e → R (pointNeg c v) (-e)
  dbl : ∀ v q e, R v e → pointDbl c v = some q → R q (e + e)
  add : ∀ v w q e f, R v e → R w f → pointAdd c v w = some q → R q (e + f)

theorem tableFrom_reads (hR : ReadsInGroup c R) (hd2 : R d2 b) (ht : R t a) (h : tableFrom c d2 n t = some ts) :
    ∀ i ≤ n, R (ts.getD i .inf) (a + i • b) := by
  induction n generalizing t a ts with
  | zero =>
    intro i hi
    obtain rfl := Nat.le_zero.1 hi
    rwa [tableFrom_head h, zero_nsmul, add_zero]
  | succ n ih =>
    intro i hi
    obtain ⟨t', ts', ht', hts', rfl⟩ := tableFrom_succ_eq_some h
    cases i with
    | zero => rwa [List.getD_cons_zero, zero_nsmul, add_zero]
    | succ i =>
      have hstep := ih (hR.add _ _ _ _ _ ht hd2 ht') hts' i (Nat.le_of_succ_le_succ hi)
      rwa [List.getD_cons_succ, succ_nsmul', ← add_assoc]

/-- The entry that a digit selects reads as the digit's multiple of the point (R95). -/
theorem selectEntry_reads (hR : ReadsInGroup c R) (hw : 2 ≤ w)
    (hts : ∀ i ≤ 2 ^ (w - 2) - 1, R (ts.getD i .inf) (e + i • (e + e))) {d : Int} (hd : IsWnafDigit w d) :
    R (selectEntry c ts d) (d • e) := by
  obtain rfl | ⟨hodd, hle⟩ := hd
  · rw [zero_zsmul]
    exact hR.inf
  · have hpow : 2 * 2 ^ (w - 2) = 2 ^ (w - 1) := mul_pow_sub_one (n := w - 1) (by omega) 2
    have hentry : R (ts.getD ((d.natAbs - 1) / 2) .inf) (d.natAbs • e) := by
      have hsum : e + ((d.natAbs - 1) / 2) • (e + e) = d.natAbs • e := by
        rw [← two_nsmul, ← mul_nsmul', ← succ_nsmul']
        congr 1
        omega
      rw [← hsum]
      exact hts _ (by omega)
    have h0 : d ≠ 0 := by omega
    simp only [selectEntry, if_neg h0]
    split
    · have hneg : d • e = -(d.natAbs • e) := by
        rw [← natCast_zsmul, ← neg_zsmul]
        congr 1
        omega
      rw [hneg]
      exact hR.neg _ _ hentry
    · have hpos : d • e = d.natAbs • e := by
        rw [← natCast_zsmul]
        congr 1
        omega
      rwa [hpos]

/-- The loop's answer reads as the digits' sum times the point (R96). -/
theorem multiplyLoop_reads (hR : ReadsInGroup c R) {ds : List Int} (hds : ∀ d ∈ ds, R (selectEntry c ts d) (d • e))
    (h : multiplyLoop c ts ds = some q) : R q (digitSum ds • e) := by
  induction ds generalizing q with
  | nil =>
    cases h
    rw [digitSum, zero_zsmul]
    exact hR.inf
  | cons d ds ih =>
    obtain ⟨hd, hds⟩ := List.forall_mem_cons.1 hds
    obtain ⟨acc, acc2, hacc, hacc2, hq⟩ := multiplyLoop_cons_eq_some h
    have hsum : digitSum (d :: ds) • e = digitSum ds • e + digitSum ds • e + d • e := by
      rw [digitSum, add_zsmul, two_mul, add_zsmul, add_comm]
    rw [hsum]
    exact hR.add _ _ _ _ _ (hR.dbl _ _ _ (ih hds hacc) hacc2) hd hq

/-- With enough digits the accumulator reads as k times the point (R98). -/
theorem multiply_reads (hR : ReadsInGroup cfg.curve R) (hcfg : cfg.Valid) (hl : 257 ≤ cfg.wnafL) (hk : k < 2 ^ 256)
    (hv : R (pointToJac v) e) (h : x.multiply cfg v k = some y) : R y.acc (k • e) := by
  obtain ⟨-, hw, -⟩ := hcfg
  obtain ⟨d2, ts, hd2, hts, hacc⟩ := multiply_eq_some h
  have hentries := tableFrom_reads hR (hR.dbl _ _ _ hv hd2) hv hts
  have hselect : ∀ d ∈ wnafDigits cfg.wnafW cfg.wnafL k, R (selectEntry cfg.curve ts d) (d • e) :=
    fun d hd => selectEntry_reads hR hw hentries (isWnafDigit_of_mem hw d hd)
  rw [← natCast_zsmul, ← digitSum_wnafDigits_eq hw hk hl]
  exact multiplyLoop_reads hR hselect hacc

/-- A reading by a function on the points in play. -/
theorem readsInGroup_of_map {f : Point → A} {good : Point → Prop} (hinf : good .inf) (hf : f .inf = 0)
    (hneg : ∀ v, good v → good (pointNeg c v) ∧ f (pointNeg c v) = -f v)
    (hdbl : ∀ v q, good v → pointDbl c v = some q → good q ∧ f q = f v + f v)
    (hadd : ∀ v w q, good v → good w → pointAdd c v w = some q → good q ∧ f q = f v + f w) :
    ReadsInGroup c fun v e => good v ∧ f v = e where
  inf := ⟨hinf, hf⟩
  neg := by
    rintro v _ ⟨hv, rfl⟩
    exact hneg v hv
  dbl := by
    rintro v q _ ⟨hv, rfl⟩ hq
    exact hdbl v q hv hq
  add := by
    rintro v w q _ _ ⟨hv, rfl⟩ ⟨hw, rfl⟩ hq
    exact hadd v w q hv hw hq

/-- The reading of valid points as elements of the curve's group (R16). -/
theorem readsInGroup_represents [Fact (Nat.Prime c.p.toNat)] (hc : c.Valid) :
    ReadsInGroup c fun v (e : (weierstrassOf c).Point) => v.Ok c.p.toNat ∧ Represents c v e where
  inf := ⟨trivial, rfl⟩
  neg := fun _ _ ⟨hv, he⟩ => ⟨pointNeg_ok hc hv, pointNeg_represents hc he⟩
  dbl := by
    rintro v q e ⟨hv, he⟩ hq
    obtain ⟨_, hq', hok⟩ := pointDbl_ok hc hv
    cases hq.symm.trans hq'
    exact ⟨hok, pointDbl_represents hc hv he hq⟩
  add := by
    rintro v w q e f ⟨hv, he⟩ ⟨hw, hf⟩ hq
    obtain ⟨_, hq', hok⟩ := pointAdd_ok hc hv hw
    cases hq.symm.trans hq'
    exact ⟨hok, pointAdd_represents hc hv hw he hf hq⟩

end Sys2Proof.Machine
end

section
/-! PROOF. PSMUL (R97, R98). -/

namespace Sys2Proof.Machine

open Sys2Proof

variable {s : State} {x : Scratch}

/-- PSMUL writes the accumulator of a scratch run that answers. -/
theorem exec_psmul_of_multiply {d a b : RegIdx} (h : s.scratch.multiply s.config (s.pointOf a) (s.natF b) = some x) :
    exec (.psmul d a b) s = .next ((s.writePoint d x.acc).complete .ok) :=
  exec_of_finishPoint (exec_psmul d a b s) (by rw [h]; rfl)

/-- The scratch run answers in every state, with INF or a Jacobian point (R97). -/
theorem multiply_answers (s : State) (v : Point) (k : Nat) :
    ∃ x, s.scratch.multiply s.config v k = some x ∧ x.acc.isJacobian = true :=
  multiply_closed (closed_jacobian s.config.curve) s.scratch pointToJac_isJacobian k

theorem reg_tag_ne_aff {v : Point} (h : v.isJacobian = true) : v.reg.tag ≠ .aff := by
  cases v with
  | inf => exact Tag.noConfusion
  | aff x y => cases h
  | jac x y z => exact Tag.noConfusion

/-- Settles O55: the scratch run works on INF and Jacobian points alone, which never need an inverse. -/
theorem psmulCompletes : Obligations.PsmulCompletes := by
  intro d a b s
  obtain ⟨x, hx, hjac⟩ := multiply_answers s (s.pointOf a) (s.natF b)
  exact ⟨_, _, exec_psmul_of_multiply hx, writePoint_complete s d x.acc, reg_tag_ne_aff hjac⟩

/-! Corner cases -/

/-- INF alone is a kind of point value that the point functions keep. -/
theorem closed_identity (c : Curve) : Closed c (· = .inf) where
  inf := rfl
  neg := by
    rintro _ rfl
    rfl
  dbl := by
    rintro _ rfl
    exact ⟨_, rfl, rfl⟩
  add := by
    rintro _ _ rfl rfl
    exact ⟨_, rfl, rfl⟩

theorem multiply_identity (s : State) (k : Nat) :
    ∃ x, s.scratch.multiply s.config .inf k = some x ∧ x.acc = .inf :=
  multiply_closed (closed_identity s.config.curve) s.scratch rfl k

theorem multiply_zero (s : State) (v : Point) :
    ∃ x, s.scratch.multiply s.config v 0 = some x ∧ x.acc = .inf := by
  obtain ⟨x, hx, -⟩ := multiply_answers s v 0
  obtain ⟨_, ts, -, -, hacc⟩ := multiply_eq_some hx
  rw [wnafDigits_zero, multiplyLoop_replicate_zero] at hacc
  exact ⟨x, hx, (Option.some.inj hacc).symm⟩

theorem multiply_one (hw : 2 ≤ s.config.wnafW) (hl : 1 ≤ s.config.wnafL) (v : Point) :
    ∃ x, s.scratch.multiply s.config v 1 = some x ∧ x.acc = pointToJac v := by
  obtain ⟨x, hx, -⟩ := multiply_answers s v 1
  obtain ⟨_, ts, -, hts, hacc⟩ := multiply_eq_some hx
  obtain ⟨l, hl'⟩ := Nat.exists_eq_add_of_le' hl
  rw [hl', wnafDigits_one hw, multiplyLoop_one, tableFrom_head hts] at hacc
  exact ⟨x, hx, (Option.some.inj hacc).symm⟩

/-- A scratch run that answers `q` makes PSMUL write `q` alone. -/
theorem psmul_writes_of_multiply {d a b : RegIdx} {q : Point}
    (h : ∃ x, s.scratch.multiply s.config (s.pointOf a) (s.natF b) = some x ∧ x.acc = q) :
    ∃ t, exec (.psmul d a b) s = .next t ∧ WritesOnlyPt s t d q.reg := by
  obtain ⟨x, hx, rfl⟩ := h
  exact ⟨_, exec_psmul_of_multiply hx, writePoint_complete s d x.acc⟩

/-- Settles O56: no digit, no point, or the digit 1 alone. -/
theorem psmulCornerCases : Obligations.PsmulCornerCases := by
  intro d a b s hcfg _
  obtain ⟨-, hw, -⟩ := hcfg
  refine ⟨fun hb => ?zero, fun ha => ?identity, fun hb hl => ?one⟩
  case zero =>
    have hk : s.natF b = 0 := by rw [State.natF, hb, BitVec.toNat_zero]
    exact psmul_writes_of_multiply (hk ▸ multiply_zero s (s.pointOf a))
  case identity =>
    have hv : s.pointOf a = .inf := val_of_tag_inf ha
    exact psmul_writes_of_multiply (q := .inf) (by rw [hv]; exact multiply_identity s (s.natF b))
  case one =>
    have hk : s.natF b = 1 := by rw [State.natF, hb]; rfl
    exact psmul_writes_of_multiply (hk ▸ multiply_one hw hl (s.pointOf a))

/-! The multiple of the point -/

/-- Settles O57: the reading of points is the given map, on the points in play. -/
theorem psmulComputesMultipleOfItsPoint : Obligations.PsmulComputesMultipleOfItsPoint := by
  intro A _ f good d a b s hcfg hl hinf hf hneg hdbl hadd hgood
  obtain ⟨x, hx, -⟩ := multiply_answers s (s.pointOf a) (s.natF b)
  have hR := readsInGroup_of_map hinf hf hneg hdbl hadd
  exact ⟨_, x.acc, exec_psmul_of_multiply hx, writePoint_complete s d x.acc,
    multiply_reads hR hcfg hl (s.readF b).isLt ⟨hgood, rfl⟩ hx⟩

/-- Settles O58: the reading of points is the element of the curve's group that a valid point stands for. -/
theorem psmulFollowsGroupLaw : Obligations.PsmulFollowsGroupLaw := by
  intro s _ d a b e hcfg hpts hl he
  have hc := hcfg.1
  obtain ⟨x, hx, -⟩ := multiply_answers s (s.pointOf a) (s.natF b)
  have hpoint := And.intro (pointToJac_ok hc (pointOf_ok hpts a)) (pointToJac_represents hc he)
  obtain ⟨hok, hacc⟩ := multiply_reads (readsInGroup_represents hc) hcfg hl (s.readF b).isLt hpoint hx
  exact represents_of_exec (exec_psmul_of_multiply hx) hok hacc

end Sys2Proof.Machine
end

section
/-! PROOF. The system commands NOP and ZERO (R100, R101). -/

namespace Sys2Proof.Machine

open Sys2Proof

variable {s t : State} {w : Word} {i : Instr}

/-! The words that share the opcode of a command without operands (R54) -/

/-- Where only unused fields can be wrong, every word but the command's own has one nonzero. -/
theorem decode_eq_unusedField {b : Bool} (h : decode w = ifUnusedZero b (.ok i)) (hw : w ≠ encode i) :
    decode w = .error .unusedField := by
  cases b with
  | false => exact h
  | true => exact absurd (encodeOfDecodedWord w i h).2.symm hw

theorem decode_of_op_nop (hop : (splitWord w).op.toNat = 0x00) : ∃ b, decode w = ifUnusedZero b (.ok .nop) := by
  simp only [decode, decodeFields, hop]
  exact ⟨_, rfl⟩

theorem decode_of_op_zero (hop : (splitWord w).op.toNat = 0x30) : ∃ b, decode w = ifUnusedZero b (.ok .zero) := by
  simp only [decode, decodeFields, hop]
  exact ⟨_, rfl⟩

theorem encode_nop : encode .nop = 0#32 := by decide

theorem encode_zero : encode .zero = 0xC0000000#32 := by decide

theorem decode_nopWord : decode 0#32 = .ok .nop :=
  encode_nop ▸ decodeOfEncodedCommand .nop rfl

/-! From an accepted START to the completion step (R102, R103) -/

theorem run_succ_of_step (k : Nat) (h : step s = .next t) :
    Host.Core.run Sys2Proof.core (k + 1) s = Host.Core.run Sys2Proof.core k t := by
  have hstep : Sys2Proof.core.step s = .next t := h
  simp only [Host.Core.run, hstep]

/-- The completion step of a legal word is its command's meaning. -/
theorem completeLatched_of_ok (h : decode s.cl = .ok i) : completeLatched s = exec i s := by
  simp only [completeLatched, h]

/-- A START while idle, then the engine's turn: the command in CMD runs, with IRQEN as the START left it. -/
theorem run_start_engine {v : Word} {es : List Event} (hb : s.busy = false) (hv : v.getLsbD 0 = true)
    (hev : s.events = .write 0x004#12 4 v :: .engine :: es) (hi : decode s.cmd = .ok i)
    (ht : exec i { s.start with irqen := v.getLsbD 1, events := es } = .next t) :
    Host.Core.run Sys2Proof.core 2 s = .next t := by
  have hstart : step s = .next { s.start with irqen := v.getLsbD 1, events := .engine :: es } :=
    (startLatchesCommand.1 s _ v hev).1 hv hb
  have hengine : step { s.start with irqen := v.getLsbD 1, events := .engine :: es } = .next t := by
    rw [step_engine_busy rfl rfl]
    exact (completeLatched_of_ok (s := { s.start with irqen := v.getLsbD 1, events := es }) hi).trans ht
  rw [run_succ_of_step 1 hstart, run_succ_of_step 0 hengine]
  rfl

/-! NOP -/

theorem exec_nop (s : State) : exec .nop s = .next (s.complete .ok) := rfl

/-- CMD holds NOP's word after reset, so a START runs NOP. -/
theorem run_nop_after_reset (c : Config) {v : Word} (es : List Event) (hv : v.getLsbD 0 = true) :
    Host.Core.run Sys2Proof.core 2 { State.resetOf c with events := .write 0x004#12 4 v :: .engine :: es } =
      .next { State.resetOf c with irqen := v.getLsbD 1, done := true, events := es } :=
  run_start_engine rfl hv rfl decode_nopWord (exec_nop _)

/-- Settles O59. -/
theorem nopResult : Obligations.NopResult := by
  refine ⟨fun s => ⟨_, exec_nop s, complete_writesNothing s .ok⟩, encode_nop, fun w hop hw => ?illegal,
    fun v es hv => ?run⟩
  case illegal =>
    obtain ⟨b, hb⟩ := decode_of_op_nop hop
    exact decode_eq_unusedField hb (encode_nop ▸ hw)
  case run => exact run_nop_after_reset .hardware es hv

/-! ZERO -/

theorem exec_zero (s : State) : exec .zero s = .next (s.perform .erase) := rfl

theorem perform_erase_completes (s : State) : Completes s (s.perform .erase) .ok := by
  simp [State.perform, Completes]

theorem perform_erase_readF (s : State) (r : RegIdx) : (s.perform .erase).readF r = 0#256 := by
  simp [State.perform]

theorem perform_erase_readPt (s : State) (r : RegIdx) : (s.perform .erase).readPt r = .identity := by
  simp [State.perform]

theorem perform_erase_erase (s : State) : (s.perform .erase).perform .erase = s.perform .erase := rfl

/-- Settles O60: ZERO erases, and erasing again changes nothing. -/
theorem zeroErasesRegisters : Obligations.ZeroErasesRegisters := by
  refine ⟨fun s => ?erases, encode_zero, fun w hop hw => ?illegal⟩
  case erases =>
    have hagain : exec .zero (s.perform .erase) = .next (s.perform .erase) := by rw [exec_zero, perform_erase_erase]
    exact ⟨_, exec_zero s, perform_erase_completes s, perform_erase_readF s, perform_erase_readPt s, rfl, rfl, rfl,
      rfl, hagain⟩
  case illegal =>
    obtain ⟨b, hb⟩ := decode_of_op_zero hop
    exact decode_eq_unusedField hb (encode_zero ▸ hw)

end Sys2Proof.Machine
end

section
/-! PROOF. The end of a command: the code it reports, and what it leaves (R103, R105, R106). -/

namespace Sys2Proof.Machine

open Sys2Proof

variable {s t : State} {i : Instr} {code : Completion}

/-- Settles O8. -/
theorem stepRunsLatchedCommand : Obligations.StepRunsLatchedCommand := by
  intro s es i hb hn hi
  rw [step_engine_busy hb (congrArg Prod.fst hn), hn]
  exact completeLatched_of_ok (s := { s with events := es }) hi

/-! Which command reports which code -/

theorem completion_bits_inj {c c' : Completion} : c.bits = c'.bits ↔ c = c' := by
  cases c <;> cases c' <;> decide

/-- The end of a command with its code: an error writes nothing else (R103, R106). -/
def EndsWith (s t : State) (code : Completion) : Prop :=
  Completes s t code ∧ (code ≠ .ok → SameF s t ∧ SamePt s t ∧ SameFlags s t)

theorem EndsWith.err_eq_iff (h : EndsWith s t code) (c : Completion) : t.err = c.bits ↔ code = c := by
  rw [h.1.1, completion_bits_inj]

/-- What it takes for command `i` to report a code: ILLEGAL an ill-formed term, NOINV an FINV or a state that breaks R9
or R24 (R54, R105). -/
def MayReport (i : Instr) (s : State) : Completion → Prop
  | .ok => True
  | .illegal => i.wellFormed = false
  | .noinv => (∃ d a m, i = .finv d a m) ∨ ¬ (s.config.Valid ∧ s.PointsOk)

theorem lt_of_curveConst_eq_none {c : Curve} {k : Nat} (h : curveConst c k = none) : 6 < k := by
  by_contra hk
  interval_cases k <;> cases h

theorem fldc_not_wellFormed {c : Curve} {d : RegIdx} {k : BitVec 8} (h : curveConst c k.toNat = none) :
    (Instr.fldc d k).wellFormed = false :=
  decide_eq_false (lt_of_curveConst_eq_none h).not_ge

/-- A command that writes what a point function answers can report NOINV only where the function does not answer, on no
valid point (R77, R87). -/
theorem finishPoint_mayReport {d : RegIdx} {v : Option Point} (h : exec i s = .next (s.finishPoint d v))
    (hv : s.config.Valid → s.PointsOk → ∃ q, v = some q ∧ q.Ok s.prime) :
    ∃ t code, exec i s = .next t ∧ t.err = code.bits ∧ MayReport i s code := by
  cases v with
  | some q => exact ⟨_, .ok, h, rfl, trivial⟩
  | none =>
    refine ⟨_, .noinv, h, rfl, .inr fun ⟨hc, hp⟩ => ?_⟩
    obtain ⟨_, hq, -⟩ := hv hc hp
    cases hq

theorem exec_mayReport (i : Instr) (s : State) :
    ∃ t code, exec i s = .next t ∧ t.err = code.bits ∧ MayReport i s code := by
  cases i with
  | finv d a m =>
    cases h : invMod (s.modulus m) (s.natF a) with
    | none => exact ⟨_, .noinv, exec_finv_none h, rfl, .inl ⟨d, a, m, rfl⟩⟩
    | some v => exact ⟨_, .ok, exec_finv_some h, rfl, trivial⟩
  | fldc d k =>
    cases h : curveConst s.config.curve k.toNat with
    | none => exact ⟨_, .illegal, exec_fldc_none h, rfl, fldc_not_wellFormed h⟩
    | some v => exact ⟨_, .ok, exec_fldc_some h, rfl, trivial⟩
  | psetj d a b c =>
    by_cases h : s.natF c % s.prime = 0
    · exact ⟨_, .ok, exec_psetj_inf h, rfl, trivial⟩
    · exact ⟨_, .ok, exec_psetj_jac h, rfl, trivial⟩
  | pdbl d a =>
    exact finishPoint_mayReport (exec_pdbl d a s) fun hc hp => pointDbl_ok hc.1 (pointOf_ok hp a)
  | padd d a b =>
    exact finishPoint_mayReport (exec_padd d a b s)
      fun hc hp => pointAdd_ok hc.1 (pointOf_ok hp a) (pointOf_ok hp b)
  | paff d a =>
    exact finishPoint_mayReport (exec_paff d a s) fun hc hp => pointToAff_ok hc.1 (pointOf_ok hp a)
  | psmul d a b =>
    exact finishPoint_mayReport (exec_psmul d a b s) fun hc hp => multiply_acc_ok hc hp a _
  | _ => exact ⟨_, .ok, rfl, rfl, trivial⟩

/-! Every end of a command -/

/-- Only the effect that writes nothing has another code than OK. -/
theorem perform_endsWith (s : State) (e : Effect) : ∃ code, EndsWith s (s.perform e) code := by
  cases e with
  | nothing code =>
    obtain ⟨hc, hsame⟩ := complete_writesNothing s code
    exact ⟨code, hc, fun _ => hsame⟩
  | _ => exact ⟨.ok, by simp [State.perform, Completes], fun h => absurd rfl h⟩

/-- Every command ends, with a code it may report (R103). -/
theorem exec_endsWith (i : Instr) (s : State) :
    ∃ t code, exec i s = .next t ∧ EndsWith s t code ∧ MayReport i s code := by
  obtain ⟨e, he⟩ := exec_hasEffect i s
  obtain ⟨code, hend⟩ := perform_endsWith s e
  obtain ⟨t, code', ht, herr, hmay⟩ := exec_mayReport i s
  cases he.exec_eq.symm.trans ht
  obtain rfl := (hend.err_eq_iff code').1 herr
  exact ⟨_, code, ht, hend, hmay⟩

/-- Settles O27. -/
theorem everyCommandCompletes : Obligations.EveryCommandCompletes := by
  intro i s
  obtain ⟨t, code, ht, hend, hmay⟩ := exec_endsWith i s
  refine ⟨t, code, ht, hend.1, ?_⟩
  rintro hwf rfl
  exact Bool.noConfusion (hwf.symm.trans hmay)

/-- Settles O28. -/
theorem errorsWriteNothing : Obligations.ErrorsWriteNothing := by
  intro i s t ht herr
  obtain ⟨t', code, ht', hend, -⟩ := exec_endsWith i s
  cases ht'.symm.trans ht
  exact hend.2 (mt (hend.err_eq_iff .ok).2 herr)

/-- Settles O29: FINV of an operand that shares no factor with the modulus completes with OK. -/
theorem onlyFinvReportsNoinv : Obligations.OnlyFinvReportsNoinv := by
  intro i s t hc hp ht herr
  obtain ⟨t', code, ht', hend, hmay⟩ := exec_endsWith i s
  cases ht'.symm.trans ht
  obtain rfl := (hend.err_eq_iff .noinv).1 herr
  obtain ⟨d, a, m, rfl⟩ | hinvalid := hmay
  · refine ⟨d, a, m, rfl, fun hg => ?_⟩
    obtain ⟨u, v, hu, ⟨hok, -⟩, -⟩ := (finvResult d a m s hc).1 hg
    cases hu.symm.trans ht
    exact absurd ((hend.err_eq_iff .ok).1 hok.1) (by decide)
  · exact absurd ⟨hc, hp⟩ hinvalid

/-- The completion step reports ILLEGAL for an illegal word alone (R54, R103). -/
theorem completeLatched_endsWith (s : State) : ∃ t code, completeLatched s = .next t ∧ EndsWith s t code ∧
    (code = .illegal ↔ ∀ i, decode s.cl ≠ .ok i) := by
  cases hd : decode s.cl with
  | error e =>
    obtain ⟨hc, hsame⟩ := complete_writesNothing s .illegal
    exact ⟨_, .illegal, completeLatched_of_error hd, ⟨hc, fun _ => hsame⟩, by simp⟩
  | ok i =>
    obtain ⟨t, code, ht, hend, hmay⟩ := exec_endsWith i s
    refine ⟨t, code, (completeLatched_of_ok hd).trans ht, hend, ?_, fun h => absurd rfl (h i)⟩
    rintro rfl
    exact Bool.noConfusion ((encodeOfDecodedWord _ i hd).1.symm.trans hmay)

end Sys2Proof.Machine
end

section
/-! PROOF. The interrupt (R110). -/

namespace Sys2Proof.Machine

open Sys2Proof

variable {s t : State}

theorem writeCtrl_done (hd : s.done = false) (v : Word) : (s.writeCtrl v).done = false := by
  unfold State.writeCtrl
  split
  · split
    · exact hd
    · rfl
  · exact hd

/-- No host write sets DONE. -/
theorem writeLoc_done (hd : s.done = false) (l : Loc) (v : Word) : (s.writeLoc l v).done = false := by
  cases l with
  | ctrl => exact writeCtrl_done hd v
  | status =>
    rw [State.writeLoc, State.writeStatus, hd]
    rfl
  | cmd =>
    rw [State.writeLoc, State.writeCmd]
    split <;> exact hd
  | fWord i j =>
    rw [State.writeLoc, State.writeFWord]
    split <;> exact hd
  | _ => exact hd

/-- Only the completion step sets DONE (R110). -/
theorem deliver_sets_done {e : Event} (hd : s.done = false) (ht : deliver e s = .next t) (hdt : t.done = true) :
    s.busy = true ∧ e = .engine := by
  cases e with
  | engine =>
    rw [deliver, engineTurn] at ht
    split at ht
    · next hb => exact ⟨hb, rfl⟩
    · cases ht
      exact absurd (hd.symm.trans hdt) Bool.false_ne_true
  | reset =>
    cases ht
    exact absurd (s.resetBlock_done.symm.trans hdt) Bool.false_ne_true
  | read off size =>
    rw [deliver, hostRead_eq] at ht
    split at ht
    · cases ht
      exact absurd (hd.symm.trans hdt) Bool.false_ne_true
    · cases ht
  | write off size v =>
    rw [deliver, hostWrite_eq] at ht
    split at ht
    · cases ht
      exact absurd ((writeLoc_done hd _ v).symm.trans hdt) Bool.false_ne_true
    · cases ht

theorem irq_of_not_done (h : s.done = false) : s.irq = false := by
  rw [State.irq, h, Bool.false_and]

theorem irq_of_not_irqen (h : s.irqen = false) : s.irq = false := by
  rw [State.irq, h, Bool.and_false]

/-- IRQEN always takes bit 1 of what is written to CTRL (R27). -/
theorem writeCtrl_irqen (s : State) (v : Word) : (s.writeCtrl v).irqen = v.getLsbD 1 := by
  unfold State.writeCtrl
  split
  · split <;> rfl
  · rfl

/-- Settles O25. -/
theorem interruptFollowsDoneAndEnable : Obligations.InterruptFollowsDoneAndEnable := by
  refine ⟨fun s => rfl, fun s t hd ht hdt => ?completion, fun s t ht => ?raised, fun s v hv => ?done,
    fun s v hb hv => ?start, fun s v hv => ?irqen, fun s v hb => ?refused⟩
  case completion => exact deliver_sets_done (s := { s with events := (nextEvent s).2 }) hd ht hdt
  case raised =>
    obtain ⟨e, he, -⟩ := completeLatched_effect s
    obtain ⟨code, -, -, hdone, -, -, -, -, hirqen, -⟩ := perform_completes s e
    cases he.symm.trans ht
    rw [State.irq, hdone, hirqen, Bool.true_and]
  case done =>
    have hw : s.writeWindow 0x008#12 v = s.writeStatus v := rfl
    exact irq_of_not_done (by rw [hw, writeStatus_eq, if_pos hv])
  case start =>
    have hw : s.writeWindow 0x004#12 v = s.writeCtrl v := rfl
    exact irq_of_not_done (by rw [hw, writeCtrl_of_idle hv hb]; rfl)
  case irqen => exact irq_of_not_irqen ((writeCtrl_irqen s v).trans hv)
  case refused =>
    have hw : s.writeWindow 0x00C#12 v = s.writeCmd v := rfl
    rw [hw, writeCmd_of_busy hb]
    rfl

end Sys2Proof.Machine
end

section
/-! PROOF. Command runs and host program runs end, with the results of a completion right after the START (R104, R106,
R129). -/

namespace Sys2Proof.Machine

open Sys2Proof

variable {stop : State → Prop} {s t u : State} {v : Word} {es : List Event}

/-! That runs end -/

/-- A run ends when each of its steps reaches the end or shortens the sequence of events. -/
theorem exists_runUntil {P : State → Prop}
    (hstep : ∀ s, P s → ¬ stop s → (nextEvent s).1 ≠ .reset ∧
      ∃ u, step s = .next u ∧ (stop u ∨ P u ∧ u.events.length < s.events.length))
    {s : State} (hs : P s) : ∃ t, RunUntil stop s t := by
  induction hn : s.events.length using Nat.strong_induction_on generalizing s with
  | _ n ih =>
    by_cases h : stop s
    · exact ⟨s, .ended h⟩
    · obtain ⟨hr, u, hu, hend | ⟨hP, hlt⟩⟩ := hstep s hs h
      · exact ⟨u, .more h hr hu (.ended hend)⟩
      · obtain ⟨t, ht⟩ := ih _ (hn ▸ hlt) hP rfl
        exact ⟨t, .more h hr hu ht⟩

theorem busy_of_not_idle (h : ¬ s.Idle) : s.busy = true := by
  simpa [State.Idle] using h

theorem not_idle_of_busy (h : s.busy = true) : ¬ s.Idle := by
  simp [State.Idle, h]

theorem ordinary_ne_reset {e : Event} (h : e.ordinary = true) : e ≠ .reset := by
  rintro rfl
  cases h

theorem nextEvent_of_events {e : Event} (hev : s.events = e :: es) : nextEvent s = (e, es) := by
  rw [nextEvent, hev]

theorem nextEvent_of_no_events (hev : s.events = []) : nextEvent s = (.engine, []) := by
  rw [nextEvent, hev]

/-- While a command runs, the engine's turn leaves the block idle with DONE set (R103). -/
theorem step_engine_busy_idle (hb : s.busy = true) (hn : nextEvent s = (.engine, es)) :
    ∃ u, step s = .next u ∧ u.Idle ∧ u.done = true ∧ u.events = es := by
  rw [step_engine_busy hb (congrArg Prod.fst hn), hn]
  exact completeLatched_answers { s with events := es }

/-- An ordinary event is no reset and has a step, which takes it off the sequence (R46). -/
theorem step_ordinary_event {e : Event} (hev : s.events = e :: es) (he : e.ordinary = true) :
    (nextEvent s).1 ≠ .reset ∧ ∃ u, step s = .next u ∧ u.events = es := by
  have hn := nextEvent_of_events hev
  have hstep := step_ordinary (s := s) (by rwa [hn])
  rw [hn] at hstep ⊢
  exact ⟨ordinary_ne_reset he, hstep⟩

/-- The events the host places before the engine's next turn are all admitted accesses. -/
def OrdinaryToTurn (s : State) : Prop :=
  ∀ e ∈ s.events.takeWhile (fun e => e != .engine), e.ordinary = true

theorem exists_runUntil_idle (h : OrdinaryToTurn s) : ∃ t, RunUntil State.Idle s t := by
  refine exists_runUntil (P := OrdinaryToTurn) (fun s hs hidle => ?_) h
  have hb := busy_of_not_idle hidle
  have hturn {es : List Event} (hn : nextEvent s = (.engine, es)) : (nextEvent s).1 ≠ .reset ∧
      ∃ u, step s = .next u ∧ (u.Idle ∨ OrdinaryToTurn u ∧ u.events.length < s.events.length) := by
    obtain ⟨u, hu, hi, -⟩ := step_engine_busy_idle hb hn
    exact ⟨by simp [hn], u, hu, .inl hi⟩
  cases hev : s.events with
  | nil => exact hev ▸ hturn (nextEvent_of_no_events hev)
  | cons e es =>
    by_cases he : e = .engine
    · exact hev ▸ hturn (he ▸ nextEvent_of_events hev)
    · rw [OrdinaryToTurn, hev, List.takeWhile_cons_of_pos (by simpa using he), List.forall_mem_cons] at hs
      obtain ⟨hr, u, hu, hues⟩ := step_ordinary_event hev hs.1
      refine ⟨hr, u, hu, .inr ⟨?_, ?_⟩⟩
      · rw [OrdinaryToTurn, hues]
        exact hs.2
      · simp [hues]

theorem exists_hostProgramRun (h : ∀ e ∈ s.events, e.ordinary = true) : ∃ t, HostProgramRun s t := by
  refine exists_runUntil (P := fun s => ∀ e ∈ s.events, e.ordinary = true) (fun s hs hstop => ?_) h
  cases hev : s.events with
  | nil =>
    have hdel : s.Delivered := by simp [State.Delivered, hev]
    have hn := nextEvent_of_no_events hev
    obtain ⟨u, hu, hi, -, hues⟩ := step_engine_busy_idle (busy_of_not_idle fun hi => hstop ⟨hdel, hi⟩) hn
    exact ⟨by simp [hn], u, hu, .inl ⟨by simp [State.Delivered, hues], hi⟩⟩
  | cons e es =>
    rw [hev, List.forall_mem_cons] at hs
    obtain ⟨hr, u, hu, hues⟩ := step_ordinary_event hev hs.1
    refine ⟨hr, u, hu, .inr ⟨?_, ?_⟩⟩
    · rw [hues]
      exact hs.2
    · simp [hues]

/-- With no access pending, a run meets the engine's turn first. -/
theorem nextEvent_of_delivered (hd : s.Delivered) (hr : (nextEvent s).1 ≠ .reset) :
    ∃ es, nextEvent s = (.engine, es) ∧ ∀ e ∈ es, e.isAccess = false := by
  cases hev : s.events with
  | nil => exact ⟨[], nextEvent_of_no_events hev, by simp⟩
  | cons e es =>
    rw [State.Delivered, hev, List.forall_mem_cons] at hd
    rw [nextEvent_of_events hev] at hr ⊢
    cases e with
    | engine => exact ⟨es, rfl, hd.2⟩
    | reset => exact absurd rfl hr
    | read off size => cases hd.1
    | write off size v => cases hd.1

/-- With its accesses delivered while a command runs, a host program goes on to the completion step alone (R129). -/
theorem hostProgramRun_of_delivered (hb : s.busy = true) (hd : s.Delivered) (h : HostProgramRun s t) :
    t.Idle ∧ t.done = true := by
  cases h with
  | ended hstop => exact absurd hstop.2 (not_idle_of_busy hb)
  | more _ hr hu hrun =>
    obtain ⟨es, hn, hes⟩ := nextEvent_of_delivered hd hr
    obtain ⟨u, hu', hi, hdone, hues⟩ := step_engine_busy_idle hb hn
    cases hu'.symm.trans hu
    cases runUntil_of_stop ⟨by rwa [State.Delivered, hues], hi⟩ hrun
    exact ⟨hi, hdone⟩

/-! What a command run results in -/

/-- The state with the given values of what the host can change while a command runs (R42, R44). -/
def State.withHost (s : State) (q w d : Bool) (r : Option Word) (es : List Event) : State :=
  { s with irqen := q, werr := w, done := d, reply := r, events := es }

theorem perform_withHost (s : State) (e : Effect) (q w d : Bool) (r : Option Word) (es : List Event) :
    (s.withHost q w d r es).perform e = (s.perform e).withHost q w true r es := by
  cases e <;> rfl

/-- What the host changes while a command runs does not change the results (R20, R42). -/
theorem completeLatched_withHost (h : completeLatched s = .next u) (q w d : Bool) (r : Option Word)
    (es : List Event) : completeLatched (s.withHost q w d r es) = .next (u.withHost q w true r es) := by
  cases hd : decode s.cl with
  | error e =>
    cases (completeLatched_of_error hd).symm.trans h
    exact completeLatched_of_error (s := s.withHost q w d r es) hd
  | ok i =>
    obtain ⟨e, he⟩ := exec_hasEffect i s
    cases ((completeLatched_of_ok hd).trans he.exec_eq).symm.trans h
    rw [← perform_withHost s e q w d r es]
    exact (completeLatched_of_ok (s := s.withHost q w d r es) hd).trans (he.exec_withInputs (s.withHost q w d r es))

/-- A step that delivers a read changes the host's side alone (R44). -/
theorem step_read {e : Event} (hn : nextEvent s = (e, es)) (he : e.isRead = true) (hu : step s = .next u) :
    ∃ r, u = { s with reply := r, events := es } := by
  rw [step, hn] at hu
  cases e with
  | read off size =>
    rw [deliver, hostRead_eq] at hu
    split at hu
    · cases hu
      exact ⟨_, rfl⟩
    · cases hu
  | engine => cases he
  | reset => cases he
  | write off size v => cases he

/-- A run with reads alone before the engine's turn completes the command with the block as it was (R44, R103). -/
theorem runUntil_idle_of_reads (h : RunUntil State.Idle s t) (hb : s.busy = true)
    (hread : ∀ e ∈ s.events.takeWhile (fun e => e != .engine), e.isRead = true) :
    ∃ r es, completeLatched { s with reply := r, events := es } = .next t := by
  induction h with
  | ended hi => exact absurd hi (not_idle_of_busy hb)
  | @more s u t _ hr hu hrun ih =>
    by_cases he : (nextEvent s).1 = .engine
    · rw [step_engine_busy hb he] at hu
      cases runUntil_of_stop (completeLatched_idle hu) hrun
      exact ⟨s.reply, _, hu⟩
    · cases hev : s.events with
      | nil => exact absurd (congrArg Prod.fst (nextEvent_of_no_events hev)) he
      | cons e es =>
        have hn := nextEvent_of_events hev
        rw [hn] at he
        rw [hev, List.takeWhile_cons_of_pos (by simpa using he), List.forall_mem_cons] at hread
        obtain ⟨r, rfl⟩ := step_read hn hread.1 hu
        exact ih hb hread.2

/-- What the window reads as does not depend on the host's side. -/
theorem sameToHost_withHost (s : State) (r : Option Word) (es : List Event) :
    SameToHost s { s with reply := r, events := es } := by
  intro off _
  simp only [State.readWindow]
  cases locate off <;> rfl

theorem events_of_nextEvent_write {off : Offset} {size : Nat} (h : (nextEvent s).1 = .write off size v) :
    ∃ es, s.events = .write off size v :: es := by
  cases hev : s.events with
  | nil =>
    rw [nextEvent_of_no_events hev] at h
    cases h
  | cons e es =>
    rw [nextEvent_of_events hev] at h
    exact ⟨es, by rw [← h]⟩

/-- A command run is its accepted START and the run after it (R102, R129). -/
theorem commandRun_iff : CommandRun s t ↔ ∃ v es, s.busy = false ∧ v.getLsbD 0 = true ∧
    s.events = .write 0x004#12 4 v :: es ∧
    RunUntil State.Idle { s.start with irqen := v.getLsbD 1, events := es } t := by
  constructor
  · rintro ⟨⟨hi, v, hn, hv⟩, u, hu, hrun⟩
    obtain ⟨es, hev⟩ := events_of_nextEvent_write hn
    cases ((startLatchesCommand.1 s es v hev).1 hv hi).symm.trans hu
    exact ⟨v, es, hi, hv, hev, hrun⟩
  · rintro ⟨v, es, hi, hv, hev, hrun⟩
    exact ⟨⟨hi, v, by rw [nextEvent_of_events hev], hv⟩, _, (startLatchesCommand.1 s es v hev).1 hv hi, hrun⟩

/-- The end of a command run is the completion right after the START, but for what the host changed since (R42). -/
theorem commandRun_result (h : CommandRun s t) (hu : completeLatched s.start = .next u) :
    ∃ q w r es, t = u.withHost q w true r es := by
  obtain ⟨v, es, -, -, -, hrun⟩ := commandRun_iff.1 h
  obtain ⟨q, w, d, r, es', ht⟩ := runUntil_idle_of_busy hrun rfl
  cases (completeLatched_withHost hu q w d r es').symm.trans ht
  exact ⟨q, w, r, es', rfl⟩

/-- With reads alone in between, the end of a command run is that completion but for the host's side (R44). -/
theorem commandRun_result_of_reads (h : CommandRun s t) (hev : s.events = .write 0x004#12 4 v :: es)
    (hread : ∀ e ∈ es.takeWhile (fun e => e != .engine), e.isRead = true)
    (hu : completeLatched { s.start with irqen := v.getLsbD 1 } = .next u) :
    ∃ r es', t = { u with reply := r, events := es' } := by
  obtain ⟨v', es, -, -, hev', hrun⟩ := commandRun_iff.1 h
  cases hev.symm.trans hev'
  obtain ⟨r, es', ht⟩ := runUntil_idle_of_reads hrun rfl hread
  cases (completeLatched_withHost hu (v.getLsbD 1) s.werr false r es').symm.trans ht
  obtain ⟨u', code, hu', ⟨⟨-, -, hdone, -, -, -, -, hirqen, hwerr, -⟩, -⟩, -⟩ :=
    completeLatched_endsWith { s.start with irqen := v.getLsbD 1 }
  cases hu'.symm.trans hu
  have hsame : u.withHost u.irqen u.werr u.done r es' = u.withHost (v.getLsbD 1) s.werr true r es' := by
    rw [hirqen, hwerr, hdone]
    rfl
  exact ⟨r, es', hsame.symm⟩

/-- Settles O11. -/
theorem commandRunEnds : Obligations.CommandRunEnds := by
  refine ⟨fun s v es hi hev hv hord => ?ends, fun s t hrun => ?result, fun s t v es hev hread hrun => ?reads,
    fun s hord => ?program, fun s t hb hd hrun => hostProgramRun_of_delivered hb hd hrun⟩
  case ends =>
    obtain ⟨t, ht⟩ := exists_runUntil_idle (s := { s.start with irqen := v.getLsbD 1, events := es }) hord
    exact ⟨t, commandRun_iff.2 ⟨v, es, hi, hv, hev, ht⟩⟩
  case result =>
    obtain ⟨u, code, hu, hend, hillegal⟩ := completeLatched_endsWith s.start
    obtain ⟨q, w, r, es, rfl⟩ := commandRun_result hrun hu
    have ⟨⟨herr, hbusy, _, hscr, hconfig, hcmd, hcl, _⟩, hsame⟩ := hend
    exact ⟨hbusy, rfl, herr ▸ completion_bits_le_two code, (hend.err_eq_iff .illegal).trans hillegal,
      fun h => hsame (mt (hend.err_eq_iff .ok).2 h), hcmd, hcl, hconfig, hscr, u, hu, rfl, rfl,
      ⟨rfl, rfl, rfl, rfl⟩, rfl⟩
  case reads =>
    obtain ⟨u, -, hu, -⟩ := completeLatched_endsWith { s.start with irqen := v.getLsbD 1 }
    obtain ⟨r, es', rfl⟩ := commandRun_result_of_reads hrun hev hread hu
    exact ⟨u, hu, sameToHost_withHost u r es'⟩
  case program =>
    obtain ⟨t, ht⟩ := exists_hostProgramRun hord
    exact ⟨t, ht, fun t' ht' => runUntil_unique ht ht'⟩

end Sys2Proof.Machine
end

section
/-! PROOF. The two ways to a clean-idle block: a reset, also in mid-command (R120, R121), and a host's ZERO with the clear
of STATUS after it (R122). -/

namespace Sys2Proof.Machine

open Sys2Proof

/-! The reset (R120, R121) -/

theorem step_reset {s : State} {es : List Event} (hev : s.events = .reset :: es) :
    step s = .next { State.resetOf s.config with events := es, reply := s.reply } :=
  step_of_events hev

/-- Settles O14: the reset state of the constants in place, whatever the block was doing. -/
theorem resetAbortsCommand : Obligations.ResetAbortsCommand := fun s _ hev =>
  ⟨_, step_reset hev, rfl, rfl, rfl, resetOf_readF s.config, resetOf_readPt s.config⟩

/-! The takeover of an idle block (R122) -/

theorem run_add_of_run {M : Host.Core} {j : Nat} (k : Nat) {s t : M.State} (h : M.run j s = .next t) :
    M.run (j + k) s = M.run k t := by
  induction j generalizing s with
  | zero =>
    cases h
    rw [Nat.zero_add]
  | succ j ih =>
    rw [Nat.succ_add, Host.Core.run]
    rw [Host.Core.run] at h
    cases hstep : M.step s with
    | next u =>
      rw [hstep] at h
      exact ih h
    | _ =>
      rw [hstep] at h
      cases h

theorem decode_zeroWord : decode 0xC0000000#32 = .ok .zero :=
  encode_zero ▸ decodeOfEncodedCommand .zero rfl

/-- `s` as ZERO leaves it, started by a write of CTRL that gives IRQEN `q`, with `es` still pending (R101, R102). -/
def State.afterZero (s : State) (q : Bool) (es : List Event) : State :=
  { ({ s with cmd := 0xC0000000#32 } : State).start with irqen := q, events := es }.perform .erase

/-- An idle block runs ZERO in three steps: the write of CMD, the START, the engine's turn. -/
theorem run_zero {s : State} {v : Word} {es : List Event} (hb : s.busy = false) (hv : v.getLsbD 0 = true)
    (hev : s.events = .write 0x00C#12 4 0xC0000000#32 :: .write 0x004#12 4 v :: .engine :: es) :
    Host.Core.run Sys2Proof.core 3 s = .next (s.afterZero (v.getLsbD 1) es) :=
  (run_succ_of_step 2 (commandWriteWhileIdle s _ _ hb hev)).trans
    (run_start_engine hb hv rfl decode_zeroWord (exec_zero _))

/-- ZERO leaves DONE set, and WERR as it was: with both clear the block is clean-idle (R122). -/
theorem afterZero_cleanIdle (s : State) (q : Bool) (es es' : List Event) :
    State.CleanIdle { s.afterZero q es with events := es', done := false, werr := false } :=
  have hf : ∀ r, (s.afterZero q es).readF r = 0#256 := perform_erase_readF _
  have hpt : ∀ r, (s.afterZero q es).readPt r = .identity := perform_erase_readPt _
  ⟨rfl, rfl, rfl, rfl, hf, hpt, rfl, rfl, rfl, rfl⟩

/-- Settles O26: ZERO's three steps, then the write that clears DONE and WERR. -/
theorem takeoverReachesCleanIdle : Obligations.TakeoverReachesCleanIdle := by
  intro s v es hb hv hev
  have hclear : step (s.afterZero (v.getLsbD 1) (.write 0x008#12 4 6#32 :: es)) = .next
      { s.afterZero (v.getLsbD 1) (.write 0x008#12 4 6#32 :: es) with events := es, done := false, werr := false } :=
    statusWriteClearsDoneAndWerr _ es 6#32 rfl
  have hrun := (run_add_of_run 1 (run_zero hb hv hev)).trans (run_succ_of_step 0 hclear)
  exact ⟨_, hrun, afterZero_cleanIdle s _ _ _, rfl, rfl, rfl, rfl⟩

end Sys2Proof.Machine
end
